-- ==== Sys2Proof/Word.lean ====
section
/-! DEFINITION. The words the block moves, the two channels (and two lanes), and the plainest arithmetic.
`spec/00_scope.md` rules R7, R18, R19. -/

namespace Sys2Proof

/-- A word is 32 bits, bit 0 the least significant (R18). -/
abbrev Word := BitVec 32

/-- A byte: an entry of a gamma table, a component of a pixel, a cell of a RAM. -/
abbrev Byte := BitVec 8

/-- The channel index `n ∈ {0, 1}` (`NCH = 2`, R7); also the index of a serializer lane. -/
inductive Chan where
  | ch0
  | ch1
  deriving DecidableEq, Repr, Inhabited

/-- The number of a channel or lane. -/
def Chan.toNat : Chan → Nat
  | .ch0 => 0
  | .ch1 => 1

/-- One thing for each channel (or lane). -/
structure Pair (α : Type) where
  ch0 : α
  ch1 : α
  deriving DecidableEq, Repr, Inhabited

namespace Pair

/-- The component of channel `n`. -/
def get {α : Type} (p : Pair α) : Chan → α
  | .ch0 => p.ch0
  | .ch1 => p.ch1

/-- `p` with channel `n`'s component replaced. -/
def set {α : Type} (p : Pair α) (n : Chan) (v : α) : Pair α :=
  match n with
  | .ch0 => { p with ch0 := v }
  | .ch1 => { p with ch1 := v }

end Pair

/-- `ceil_div(a, b) = (a + b − 1) div b` for `b > 0` (R19). The sum is written with `b − 1` first: where `b` is a
large numeral and `a` is not one, the other order is a numeral added to a variable, which the kernel unfolds. -/
def ceilDiv (a b : Nat) : Nat := (b - 1 + a) / b

end Sys2Proof
end

