-- ==== Sys2Proof/Config.lean ====
section
/-! DEFINITION. What an implementation fixes (the parameters of `spec/00_scope.md` rules R10 to R17), what the
outside world can do to the block (the events), and the free values. A parameter is plain data in the state's
field `cfg`, which no step changes; so a statement about every state holds for every parameter (log entry 5). -/

namespace Sys2Proof

/-- The output functions a pin can take (R13). -/
inductive PinFn where
  | pwm0
  | pwm1
  | pcmDout
  | spiMosi
  deriving DecidableEq, Repr

/-- A known hardware profile (R14). `core_hz < 2^32` (`spec/10_state.md` rule R41), hence a word. -/
structure Profile where
  id      : Word
  coreHz  : Word
  dmaMask : BitVec 16
  deriving DecidableEq, Repr

/-- `TRANSFER_ERRORS` (R17): whether the serializer may underrun. -/
inductive TransferErrors where
  | anytime
  | never
  deriving DecidableEq, Repr

/-- The parameters. -/
structure Config where
  /-- `MAX_LEDS` (R10). -/
  maxLeds        : Nat
  /-- `SYM_WORDS` (R10). -/
  symWords       : Nat
  /-- `FIFO_DEPTH` (R11). -/
  fifoDepth      : Nat
  /-- `PIN_FUNCTIONS` (R13): the pairs of a pin and a function it can take. -/
  pinFunctions   : List (Byte × PinFn)
  /-- `PROFILES` (R14). -/
  profiles       : List Profile
  /-- `WAIT_TIMEOUT_US` (R16). -/
  waitTimeoutUs  : Nat
  /-- `CLK_TIMEOUT_US` (R16). -/
  clkTimeoutUs   : Nat
  transferErrors : TransferErrors
  /-- `CLOCK_MAY_FAIL` (R17). -/
  clockMayFail   : Bool
  /-- `BASE` (`spec/20_memory.md` rule R101). -/
  base           : Nat
  deriving DecidableEq, Repr

/-- The ranges the rules give the parameters (R10, R11, R101; `FIFO_DEPTH ≤ 255` is R48's). -/
def Config.ok (c : Config) : Bool :=
  decide (1 ≤ c.maxLeds ∧ c.maxLeds ≤ 16384 ∧ 1 ≤ c.symWords ∧ c.symWords ≤ 65536 ∧
    2 ≤ c.fifoDepth ∧ c.fifoDepth ≤ 255 ∧ c.base % 2 ^ 20 = 0)

/-- The proposed default of `PIN_FUNCTIONS` (R13). -/
def Config.defaultPins : List (Byte × PinFn) :=
  [(12#8, .pwm0), (18#8, .pwm0), (40#8, .pwm0), (52#8, .pwm0),
   (13#8, .pwm1), (19#8, .pwm1), (41#8, .pwm1), (45#8, .pwm1), (53#8, .pwm1),
   (21#8, .pcmDout), (31#8, .pcmDout), (10#8, .spiMosi), (38#8, .spiMosi)]

/-- The example profile `EX_A` of `spec/95_test_vectors.md` section 0. -/
def Config.exA : Profile := { id := 0x00A02082#32, coreHz := 19200000#32, dmaMask := 0x7FFF#16 }

/-- The example profile `EX_B` of `spec/95_test_vectors.md` section 0. -/
def Config.exB : Profile := { id := 0x00C03111#32, coreHz := 500000000#32, dmaMask := 0x05F5#16 }

/-- The proposed defaults (R10 to R17); the profiles and `BASE`, for which the spec proposes none, are the
model's (DESIGN CHOICE, log entry 5). -/
def Config.default : Config :=
  { maxLeds := 4096, symWords := 32768, fifoDepth := 16, pinFunctions := Config.defaultPins,
    profiles := [Config.exA, Config.exB], waitTimeoutUs := 1000000, clkTimeoutUs := 1000,
    transferErrors := .anytime, clockMayFail := true, base := 0 }

/-! ## Events -/

/-- What a host access does. -/
inductive HostOp where
  | read
  | write (v : Word)
  deriving DecidableEq, Repr

/-- One thing that happens next: a host access, an input, or one agent's turn (`spec/00_scope.md` rule R3). -/
inductive Event where
  /-- A host access at a 20-bit byte offset, `bytes` wide (`spec/20_memory.md` rules R100, R102). -/
  | host (offset : BitVec 20) (bytes : Nat) (op : HostOp)
  /-- The same at a platform address (R101). -/
  | platform (address : Nat) (bytes : Nat) (op : HostOp)
  /-- The command sequencer's turn; the encoder and the clock engine step inside its commands. -/
  | sequencer
  /-- The DMA scheduler's turn. -/
  | scheduler
  /-- One period of the sub-bit clock (`spec/42_dma_scheduler.md` rule R282). -/
  | serializer
  /-- The clock manager's turn (`spec/40_clock_divider.md` rule R195). -/
  | clockManager
  /-- `tick_1us` (`spec/10_state.md` rule R60). -/
  | timer
  /-- `rst_n` falls (`spec/70_reset_and_hazards.md` rule R390). -/
  | resetLow
  /-- `rst_n` rises. -/
  | resetHigh
  /-- The `profile_id` input takes a value; it is constant out of reset (R30). -/
  | setProfileId (v : Word)
  deriving DecidableEq, Repr, Inhabited

/-! ## Free values -/

/-- What a read of an unwritten RAM word returns, a fresh value at each read (R106, R112). Nothing is known
of it. -/
opaque Config.freeWord : Nat → Word

/-- The next event where the state lists none: any agent may move (R418). Nothing is known of it. -/
opaque Config.freeEvent : Nat → Event

end Sys2Proof
end

