-- ==== Sys2Proof/Syntax.lean ====
section
/-! DEFINITION. The instructions: one constructor per row of `spec/opcode_table.json`.
The block has two kinds of encoded instruction, the command word and the control block
(`spec/00_scope.md` rule R2, `spec/30_encoding.md` rule R140). -/

namespace Sys2Proof

/-- The fields of a control block's word 0, `TI` (R161). Its reserved bits are no field: a word with one
set is no instruction. -/
structure TransferInfo where
  /-- `[0]`: when the block finishes, set `DMA_CS.INT`. -/
  inten    : Bool
  /-- `[4]`: add 4 to the destination address after each word. -/
  destInc  : Bool
  /-- `[6]`: hold before each word until the selected DREQ is asserted. -/
  destDreq : Bool
  /-- `[8]`: add 4 to the source address after each word. -/
  srcInc   : Bool
  /-- `[20:16]`: the pacing source (R162). -/
  permap   : BitVec 5
  deriving DecidableEq, Repr, Inhabited

/-- A control block (R160): the transfer information and words 1 to 7. -/
structure CtrlBlock where
  ti        : TransferInfo
  sourceAd  : Word
  destAd    : Word
  txfrLen   : Word
  /-- word 4, reserved, must be 0 (checked at fetch, R163). -/
  stride    : Word
  nextConbk : Word
  /-- words 6 and 7: read and ignored (R163). -/
  word6     : Word
  word7     : Word
  deriving DecidableEq, Repr, Inhabited

/-- The instructions of the block. -/
inductive Instr where
  /-- command `0x01` (R142, R310). -/
  | init
  /-- command `0x02` (R142, R334). -/
  | fini
  /-- command `0x03` (R142, R320). -/
  | render
  /-- command `0x04` (R142, R331). -/
  | wait
  /-- command `0x05` with its channel operand `CH = CMD[8]` (R143, R330). -/
  | setGamma (ch : Chan)
  /-- any other command word, by its three fields `OP`, `CH` and `[31:9]` (R340). -/
  | cmdMalformed (op : Byte) (ch : Bool) (rsvd : BitVec 23)
  /-- a control block (R160, R264). -/
  | cb (b : CtrlBlock)
  deriving DecidableEq, Repr, Inhabited

end Sys2Proof
end

