-- ==== Sys2Proof/WellFormed.lean ====
section
/-! DEFINITION. Which terms of `Instr` are instructions as the spec has them: a malformed command word is one
that is none of the six legal ones (`spec/30_encoding.md` rules R141 to R144, R340), and a control block is
well formed when it is not ill-formed in the sense of R163. -/

namespace Sys2Proof

/-- The opcodes of R142. -/
def opcodeKnown (op : Byte) : Bool :=
  op == 0x01#8 || op == 0x02#8 || op == 0x03#8 || op == 0x04#8 || op == 0x05#8

/-- The three fields make one of the six legal command words of R144. -/
def legalCommand (op : Byte) (ch : Bool) (rsvd : BitVec 23) : Bool :=
  rsvd == 0#23 && opcodeKnown op && (!ch || op == 0x05#8)

/-- A `PERMAP` that is not reserved (R162). -/
def permapLegal (p : BitVec 5) : Bool :=
  p == 0#5 || p == 2#5 || p == 5#5 || p == 6#5

namespace CtrlBlock

/-- `TXFR_LEN[31:30]` are 0 (R160). -/
def lengthLegal (b : CtrlBlock) : Bool := b.txfrLen.extractLsb' 30 2 == 0#2

/-- `STRIDE` is 0 (R160). -/
def strideLegal (b : CtrlBlock) : Bool := b.stride == 0#32

/-- Not ill-formed (R163). A block whose length is not a multiple of 4 is well formed in this sense: it has an
error cause of its own, `LEN_ALIGN`. -/
def wellFormed (b : CtrlBlock) : Bool :=
  permapLegal b.ti.permap && b.lengthLegal && b.strideLegal

end CtrlBlock

/-- The well-formed instructions. -/
def Instr.wellFormed : Instr → Bool
  | .init => true
  | .fini => true
  | .render => true
  | .wait => true
  | .setGamma _ => true
  | .cmdMalformed op ch rsvd => !legalCommand op ch rsvd
  | .cb b => b.wellFormed

end Sys2Proof
end

