-- ==== Sys2Proof/Decode.lean ====
section
/-! DEFINITION. The decoder of the two instruction spaces, total, rejecting by name, and after it the encoder.
`spec/30_encoding.md` rules R140 to R144 (command word) and R160 to R164 (control block). Byte order, where a
word is seen as bytes: byte `b` of a word is bits `[8b+7:8b]` (`spec/20_memory.md` rule R109). -/

namespace Sys2Proof

/-- The two places an instruction is recognised (R140): a host write to `CMD`, and the fetch of a control
block at `DMA_CONBLK_AD`. -/
inductive Space where
  | command
  | controlBlock
  deriving DecidableEq, Repr

/-- Why the decoder rejects. -/
inductive DecodeError where
  /-- fewer bytes than the instruction has. -/
  | truncated
  /-- a `TI` word with a reserved bit set, mask `0xFFE0FEAE` (R161); the fetch raises `CB_FORMAT` (R163). -/
  | reservedTiBits
  deriving DecidableEq, Repr

/-! ## Bit fields -/

/-- `v[hi:lo]` of a word, `n = hi − lo + 1` bits wide (R18). -/
def Word.field (v : Word) (lo n : Nat) : BitVec n := v.extractLsb' lo n

/-- The word whose bytes, lowest address first, are the four given (R109). -/
def wordOfBytes (b0 b1 b2 b3 : Byte) : Word := b3 ++ b2 ++ b1 ++ b0

/-- Byte `k` of a word (R109). -/
def Word.byte (v : Word) (k : Nat) : Byte := v.extractLsb' (8 * k) 8

/-- The bytes of a word, lowest address first (R109). -/
def Word.bytes (v : Word) : List Byte := [v.byte 0, v.byte 1, v.byte 2, v.byte 3]

/-- The words at the front of a byte string, `n` of them, and the bytes after them. -/
def takeWords : Nat → List Byte → Option (List Word × List Byte)
  | 0, bs => some ([], bs)
  | n + 1, b0 :: b1 :: b2 :: b3 :: bs =>
    match takeWords n bs with
    | some (ws, rest) => some (wordOfBytes b0 b1 b2 b3 :: ws, rest)
    | none => none
  | _ + 1, _ => none

/-! ## The command word -/

/-- `OP = [7:0]` (R141). -/
def cmdOp (w : Word) : Byte := w.field 0 8

/-- `CH = [8]` (R141). -/
def cmdCh (w : Word) : Bool := w.getLsbD 8

/-- The reserved bits `[31:9]` (R141). -/
def cmdRsvd (w : Word) : BitVec 23 := w.field 9 23

/-- The channel that `CH` selects (R143). -/
def chanOfBit (b : Bool) : Chan := if b then .ch1 else .ch0

/-- The command a word encodes; every word that is not one of the six of R144 is malformed (R142, R143). -/
def decodeCmd (w : Word) : Instr :=
  if legalCommand (cmdOp w) (cmdCh w) (cmdRsvd w) then
    if cmdOp w = 0x01#8 then .init
    else if cmdOp w = 0x02#8 then .fini
    else if cmdOp w = 0x03#8 then .render
    else if cmdOp w = 0x04#8 then .wait
    else .setGamma (chanOfBit (cmdCh w))
  else .cmdMalformed (cmdOp w) (cmdCh w) (cmdRsvd w)

/-! ## The control block -/

/-- The reserved bits of `TI` (R161). -/
def tiReservedMask : Word := 0xFFE0FEAE#32

/-- The fields of a `TI` word, its reserved bits dropped (R161). -/
def tiFields (w : Word) : TransferInfo :=
  { inten := w.getLsbD 0, destInc := w.getLsbD 4, destDreq := w.getLsbD 6, srcInc := w.getLsbD 8,
    permap := w.field 16 5 }

/-- The control block of eight words (R160); a `TI` with a reserved bit set is rejected. -/
def decodeBlock (w0 w1 w2 w3 w4 w5 w6 w7 : Word) : Except DecodeError Instr :=
  if w0 &&& tiReservedMask = 0#32 then
    .ok (.cb { ti := tiFields w0, sourceAd := w1, destAd := w2, txfrLen := w3, stride := w4,
               nextConbk := w5, word6 := w6, word7 := w7 })
  else .error .reservedTiBits

/-- The decoder over bytes: the instruction at the front of a byte string, and the bytes after it. -/
def decode (sp : Space) (bs : List Byte) : Except DecodeError (Instr × List Byte) :=
  match sp with
  | .command =>
    match takeWords 1 bs with
    | some ([w], rest) => .ok (decodeCmd w, rest)
    | _ => .error .truncated
  | .controlBlock =>
    match takeWords 8 bs with
    | some ([w0, w1, w2, w3, w4, w5, w6, w7], rest) =>
      match decodeBlock w0 w1 w2 w3 w4 w5 w6 w7 with
      | .ok i => .ok (i, rest)
      | .error e => .error e
    | _ => .error .truncated

/-! ## The encoder -/

/-- The space an instruction belongs to (R140). -/
def Instr.space : Instr → Space
  | .cb _ => .controlBlock
  | _ => .command

/-- A command word from its three fields (R141). -/
def cmdWord (op : Byte) (ch : Bool) (rsvd : BitVec 23) : Word := rsvd ++ BitVec.ofBool ch ++ op

/-- The `TI` word of its fields, every reserved bit 0 (R161). -/
def tiWord (t : TransferInfo) : Word :=
  (0#11 ++ t.permap) ++
    (0#7 ++ BitVec.ofBool t.srcInc ++ 0#1 ++ BitVec.ofBool t.destDreq ++ 0#1 ++ BitVec.ofBool t.destInc ++
      0#3 ++ BitVec.ofBool t.inten)

/-- The bit of `CH` (R143). -/
def Chan.bit : Chan → Bool
  | .ch0 => false
  | .ch1 => true

/-- The words of an instruction (R141 to R144, R160, R161). -/
def encode : Instr → List Word
  | .init => [cmdWord 0x01#8 false 0#23]
  | .fini => [cmdWord 0x02#8 false 0#23]
  | .render => [cmdWord 0x03#8 false 0#23]
  | .wait => [cmdWord 0x04#8 false 0#23]
  | .setGamma ch => [cmdWord 0x05#8 ch.bit 0#23]
  | .cmdMalformed op ch rsvd => [cmdWord op ch rsvd]
  | .cb b => [tiWord b.ti, b.sourceAd, b.destAd, b.txfrLen, b.stride, b.nextConbk, b.word6, b.word7]

/-- The bytes of an instruction, each word's bytes lowest address first. -/
def encodeBytes (i : Instr) : List Byte := (encode i).flatMap Word.bytes

/-! ## The table's numbering -/

/-- Word `k` of an instruction whose bits are `w`, the bits from `nbits` up taken as 0. -/
def tableWord (nbits w k : Nat) : Word := BitVec.ofNat 32 ((w % 2 ^ nbits) >>> (32 * k))

/-- Which space a table row's bits are read in. The table has no column for it and the two spaces overlap, so
this is the model's convention (DESIGN CHOICE, log entry 4): one of the six legal command words is a command;
any other word whose reserved `TI` bits are 0 is a control block; the rest are (malformed) commands. -/
def tableSpace (nbits w : Nat) : Space :=
  let w0 := tableWord nbits w 0
  if nbits ≤ 32 ∧ legalCommand (cmdOp w0) (cmdCh w0) (cmdRsvd w0) = true then .command
  else if w0 &&& tiReservedMask = 0#32 then .controlBlock
  else .command

/-- The bytes of a table row's instruction as the hardware stores its words. -/
def tableBytes (nbits w : Nat) : List Byte :=
  ((List.range 8).map (tableWord nbits w)).flatMap Word.bytes

/-- The instruction the decoder reads from an instruction whose bits, numbered as `spec/opcode_table.json`
numbers them, are `w`. -/
def decodeTableWord (nbits w : Nat) : Option Instr :=
  match decode (tableSpace nbits w) (tableBytes nbits w) with
  | .ok (i, _) => some i
  | .error _ => none

end Sys2Proof
end

