-- ==== Sys2Proof/Machine/State.lean ====
section
/-! DEFINITION. The state of the block, as plain data, and its value right after reset.
`spec/10_state.md`; the reset values are those of `spec/70_reset_and_hazards.md` rule R391. -/

namespace Sys2Proof.Machine

/-! ## Enumerations -/

/-- `STATE` (R32); the encodings 5 to 7 are never held. -/
inductive RState where
  | uninit
  | idle
  | encoding
  | submitted
  | complete
  deriving DecidableEq, Repr

/-- `HOLD` (R33). -/
inductive Hold where
  | none
  | prior
  | latch
  | clock
  | waitCmd
  | work
  deriving DecidableEq, Repr

/-- The latched mode (R34, `spec/43_renderer_commands.md` rule R305). -/
inductive Mode where
  | pwm
  | pcm
  | spi
  deriving DecidableEq, Repr

/-- The return codes (`spec/30_encoding.md` rule R170). -/
inductive RetCode where
  | success
  | genericFailure
  | outOfMemory
  | hardwareNotSupported
  | memLock
  | mmap
  | mapRegisters
  | gpioInit
  | pwmSetup
  | mailboxDevice
  | dma
  | illegalGpio
  | pcmSetup
  | spiSetup
  | spiTransfer
  deriving DecidableEq, Repr

/-- The DMA error causes (`spec/30_encoding.md` rule R175). -/
inductive DmaCause where
  | none
  | cbAddr
  | cbFormat
  | lenAlign
  | srcBus
  | destBus
  | fifoOverflow
  | underrun
  deriving DecidableEq, Repr

/-! ## Parts of the state -/

/-- The writable registers of one channel (R52 to R56). -/
structure ChanRegs where
  gpio       : Byte
  invert     : Bool
  count      : BitVec 16
  layout     : Word
  brightness : Byte
  deriving DecidableEq, Repr

/-- The registers the host writes (R37 to R39, R52 to R56). -/
structure Regs where
  freq        : Word
  dmanum      : BitVec 4
  gammaFactor : Word
  chan        : Pair ChanRegs
  deriving DecidableEq, Repr

/-- The snapshot of one channel (R62). `SHIFTS` and `LATCHED` (R57, R58) are views of it. -/
structure Snap where
  count      : BitVec 16
  layout     : Word
  white      : Bool
  brightness : Byte
  invert     : Bool
  deriving DecidableEq, Repr

/-- `GEOMETRY` (R50). -/
structure GeometryReg where
  d     : BitVec 16
  t     : BitVec 14
  lanes : BitVec 2
  deriving DecidableEq, Repr

/-- One channel's count and layout, as the chain was built for it (R61). -/
structure BuiltFor where
  count  : BitVec 16
  layout : Word
  deriving DecidableEq, Repr

/-- The latched configuration (R61), with `CORE_HZ` (R41) and `GEOMETRY` (R50). -/
structure Latched where
  mode     : Mode
  active   : Pair Bool
  prof     : Option Profile
  coreHz   : Word
  freqL    : Word
  lanes    : Nat
  built    : Option (Pair BuiltFor)
  geometry : GeometryReg
  deriving DecidableEq, Repr

/-- `CLK_CTL.ENAB` (R44) and `CLK_DIV.DIVI` (R45). -/
structure Clk where
  enab : Bool
  divi : BitVec 12
  deriving DecidableEq, Repr

/-- The DMA scheduler's registers (R46, R47, R49) and its hidden bit `loaded` (R64). -/
structure Dma where
  active    : Bool
  /-- `DMA_CS.END`. -/
  ended     : Bool
  int       : Bool
  error     : Bool
  errCause  : DmaCause
  conblkAd  : Word
  ti        : Word
  sourceAd  : Word
  destAd    : Word
  txfrLen   : Word
  nextConbk : Word
  loaded    : Bool
  deriving DecidableEq, Repr

/-- One lane of the serializer (R63). -/
structure Lane where
  shreg : Word
  /-- sub-bits still to send from `shreg`, 0 to 32. -/
  left  : Nat
  /-- `led_out`. -/
  out   : Bool
  /-- `led_oe`. -/
  oe    : Bool
  deriving DecidableEq, Repr

/-- The serializer (R63); the head of the FIFO is the oldest word. -/
structure Ser where
  enabled : Bool
  fifo    : List Word
  lane    : Pair Lane
  deriving DecidableEq, Repr

/-- The timer, the render wait time and the two shadows (R42, R43, R60). -/
structure Tim where
  timeUs       : BitVec 64
  timeHiShadow : Word
  renderWait   : BitVec 64
  rwaitHiShadow : Word
  deriving DecidableEq, Repr

/-- A RAM: its listed bytes by byte address inside it, addresses strictly rising. What an unlisted address
reads as is `Memory.unspecified` or `Memory.identity` (`Machine/Ops.lean`). -/
abbrev Memory := List Host.Cell

/-- The four RAMs, two of them one per channel (R59). -/
structure Rams where
  pixel : Pair Memory
  gamma : Pair Memory
  sym   : Memory
  cb    : Memory
  deriving DecidableEq, Repr

/-- What step 1 to 11 of INIT read and computed, for the steps after it (R65, `spec/43_renderer_commands.md`
rules R310, R312). -/
structure InitArgs where
  mode   : Mode
  active : Pair Bool
  prof   : Profile
  freq   : Word
  snap   : Pair Snap
  divi   : BitVec 12
  deriving DecidableEq, Repr

/-- How far the running command has come (R65): the step it takes next. -/
inductive Phase where
  /-- no command running, or one that has taken no step yet. -/
  | start
  /-- INIT: disable the clock (step A of R198). -/
  | initDisable (a : InitArgs)
  /-- INIT: hold until the clock has stopped, then program the divider (step B). -/
  | initProgram (a : InitArgs) (t0 : BitVec 64)
  /-- INIT: enable the clock (step C). -/
  | initEnable (a : InitArgs)
  /-- INIT: hold until the clock runs, then commit. -/
  | initCommit (a : InitArgs) (t0 : BitVec 64)
  /-- FINI: disable the clock (R200). -/
  | finiDisable
  /-- FINI: hold until the clock has stopped, then release. -/
  | finiRelease (t0 : BitVec 64)
  /-- RENDER: hold for the previous transfer (step 2 of R320). -/
  | renderPrior
  /-- RENDER: hold for the latch interval (step 3). -/
  | renderLatch
  /-- RENDER: enter ENCODING (step 7). -/
  | renderEnter
  /-- RENDER: the encoder has read `g0` and `g1`, the wire groups of the first pixels of each channel (R225). -/
  | renderEncode (g0 g1 : List Word)
  /-- RENDER: the build phase (step 9). -/
  | renderBuild
  /-- RENDER: arming (step 10). -/
  | renderArm
  /-- WAIT: hold for completion (step 3 of R331). -/
  | waitHold (t0 : BitVec 64)
  deriving DecidableEq, Repr

/-- The command sequencer (R32 to R36, R65). -/
structure Seq where
  state      : RState
  hold       : Hold
  cmdBusy    : Bool
  xferErr    : Bool
  cmdLost    : Bool
  bufHazard  : Bool
  chainValid : Bool
  cmd        : Word
  result     : RetCode
  phase      : Phase
  deriving DecidableEq, Repr

/-- The port's answer to the last host access (`spec/20_memory.md` rule R100). The model's own field. -/
inductive BusAnswer where
  | none
  | data (v : Word)
  | written
  deriving DecidableEq, Repr

/-- The block's inputs, and the model's own fields for what comes from outside. -/
structure Env where
  rstN      : Bool
  profileId : Word
  /-- the clock manager's `BUSY` (R195). -/
  busy      : Bool
  bus       : BusAnswer
  /-- what happens next, oldest first. -/
  events    : List Event
  /-- how many free values have been drawn. -/
  draws     : Nat
  deriving DecidableEq, Repr

end Sys2Proof.Machine

namespace Sys2Proof.Machine

/-- The state. -/
structure State where
  cfg  : Config
  env  : Env
  regs : Regs
  seq  : Seq
  lat  : Latched
  snap : Pair Snap
  clk  : Clk
  dma  : Dma
  ser  : Ser
  tim  : Tim
  ram  : Rams
  deriving DecidableEq, Repr

/-- Why the machine stops. No behaviour of the block stops it: a command failure and a DMA error are steps
(`spec/60_exceptions.md` rules R350, R362), and there are no traps (R366, R367). So there is no constructor. -/
inductive Fault where
  deriving DecidableEq, Repr

/-- Why the model takes no step. -/
inductive Refusal where
  /-- an instruction without a meaning; raised by an arm of `exec` only. Safe. -/
  | notModelled (mnemonic : String)
  /-- the host port answers with a bus error: an access that is not 32 bits wide, or at an offset that is no
  multiple of 4; raised by `hostAccess`. A model refuses such an access (R102). Safe. -/
  | busError
  /-- a host access while `rst_n = 0`; raised by `step`. The port refuses accesses (R390). Safe. -/
  | inReset
  deriving DecidableEq, Repr

/-! ## Reset -/

/-- The reset value of a channel's registers (R391). -/
def ChanRegs.reset : ChanRegs :=
  { gpio := 0#8, invert := false, count := 0#16, layout := 0x00081000#32, brightness := 255#8 }

/-- The reset value of the host-written registers (R391). -/
def Regs.reset : Regs :=
  { freq := 800000#32, dmanum := 10#4, gammaFactor := 0x00010000#32,
    chan := { ch0 := ChanRegs.reset, ch1 := ChanRegs.reset } }

/-- The reset value of a snapshot: all fields 0 (R62). -/
def Snap.reset : Snap :=
  { count := 0#16, layout := 0#32, white := false, brightness := 0#8, invert := false }

/-- The reset value of the sequencer (R391). -/
def Seq.reset : Seq :=
  { state := .uninit, hold := .none, cmdBusy := false, xferErr := false, cmdLost := false,
    bufHazard := false, chainValid := false, cmd := 0#32, result := .success, phase := .start }

/-- The reset value of the latched configuration (R61, R391). -/
def Latched.reset : Latched :=
  { mode := .pwm, active := { ch0 := false, ch1 := false }, prof := none, coreHz := 0#32, freqL := 0#32,
    lanes := 0, built := none, geometry := { d := 0#16, t := 0#14, lanes := 0#2 } }

/-- The reset value of the clock (R391). -/
def Clk.reset : Clk := { enab := false, divi := 0#12 }

/-- The reset value of the scheduler (R391). -/
def Dma.reset : Dma :=
  { active := false, ended := false, int := false, error := false, errCause := .none, conblkAd := 0#32,
    ti := 0#32, sourceAd := 0#32, destAd := 0#32, txfrLen := 0#32, nextConbk := 0#32, loaded := false }

/-- The reset value of a lane (R391). -/
def Lane.reset : Lane := { shreg := 0#32, left := 0, out := false, oe := false }

/-- The reset value of the serializer (R391). -/
def Ser.reset : Ser :=
  { enabled := false, fifo := [], lane := { ch0 := Lane.reset, ch1 := Lane.reset } }

/-- The reset value of the timer (R391). -/
def Tim.reset : Tim :=
  { timeUs := 0#64, timeHiShadow := 0#32, renderWait := 0#64, rwaitHiShadow := 0#32 }

/-- The RAMs right after reset: nothing listed. Pixel, symbol and CB RAM are unspecified (R392), gamma RAM
reads as the identity (R235). -/
def Rams.reset : Rams :=
  { pixel := { ch0 := [], ch1 := [] }, gamma := { ch0 := [], ch1 := [] }, sym := [], cb := [] }

/-- The inputs right after reset. `profile_id` has no reset value (R40): 0 is the model's (DESIGN CHOICE, log
entry 6), as are the model's own fields `bus`, `events` and `draws` (log entries 17, 1 and 7). -/
def Env.reset : Env :=
  { rstN := true, profileId := 0#32, busy := false, bus := .none, events := [], draws := 0 }

/-- The machine right after reset (R391, R392). -/
def State.reset : State :=
  { cfg := Config.default, env := Env.reset, regs := Regs.reset, seq := Seq.reset, lat := Latched.reset,
    snap := { ch0 := Snap.reset, ch1 := Snap.reset }, clk := Clk.reset, dma := Dma.reset, ser := Ser.reset,
    tim := Tim.reset, ram := Rams.reset }

end Sys2Proof.Machine
end

