-- ==== Sys2Proof/Machine/Ops.lean ====
section
/-! DEFINITION. The named operations: RAM bytes and words, the free values, the completion of a command
(`spec/00_scope.md` rule R21, `spec/60_exceptions.md` rule R350), the DMA error entry (R362) and the return from
it (R363), and the flush (`spec/42_dma_scheduler.md` rule R286). -/

namespace Sys2Proof.Machine

/-! ## RAM bytes

A RAM is a list of its listed bytes. `d` gives what an unlisted address reads as. -/

/-- An unlisted byte of pixel, symbol or CB RAM has no value (R392): a read of its word draws one. -/
def Memory.unspecified : Nat → Option Byte := fun _ => none

/-- An unlisted entry of gamma RAM reads as its index, the identity table (R235). -/
def Memory.identity : Nat → Option Byte :=
  fun a => if a < 256 then some (BitVec.ofNat 8 a) else none

/-- The listed byte at an address. -/
def Memory.find? : Memory → Nat → Option Byte
  | [], _ => none
  | c :: m, a => if c.1 = a then some c.2 else Memory.find? m a

/-- The byte at an address: the listed one, else what an unlisted address reads as. -/
def Memory.read (d : Nat → Option Byte) (m : Memory) (a : Nat) : Option Byte :=
  match m.find? a with
  | some b => some b
  | none => d a

/-- List a byte, in place of the one listed at its address. -/
def Memory.insert : Memory → Nat → Byte → Memory
  | [], a, b => [(a, b)]
  | c :: m, a, b =>
    if a < c.1 then (a, b) :: c :: m
    else if a = c.1 then (a, b) :: m
    else c :: Memory.insert m a b

/-- Unlist an address. -/
def Memory.erase : Memory → Nat → Memory
  | [], _ => []
  | c :: m, a => if c.1 = a then Memory.erase m a else c :: Memory.erase m a

/-- Write a byte. A byte equal to what its address reads as unlisted is unlisted, so equal memories are equal
lists. -/
def Memory.write (d : Nat → Option Byte) (m : Memory) (a : Nat) (b : Byte) : Memory :=
  if d a = some b then m.erase a else m.insert a b

/-- The canonical form: addresses strictly rising, and no entry equal to what its address reads as unlisted. -/
def Memory.wf (d : Nat → Option Byte) (m : Memory) : Bool :=
  decide (m.Pairwise (fun c c' => c.1 < c'.1)) && m.all (fun c => d c.1 != some c.2)

/-- The canonical form of all six memories. -/
def Rams.wf (r : Rams) : Bool :=
  r.pixel.ch0.wf Memory.unspecified && r.pixel.ch1.wf Memory.unspecified &&
    r.gamma.ch0.wf Memory.identity && r.gamma.ch1.wf Memory.identity &&
    r.sym.wf Memory.unspecified && r.cb.wf Memory.unspecified

/-! ## RAM words

Word `k` of a RAM is its bytes `4k` to `4k + 3`, byte `b` the bits `[8b+7:8b]` (R109). -/

/-- Word `k`, where it has been written. -/
def Memory.word? (m : Memory) (k : Nat) : Option Word :=
  match m.read Memory.unspecified (4 * k), m.read Memory.unspecified (4 * k + 1),
    m.read Memory.unspecified (4 * k + 2), m.read Memory.unspecified (4 * k + 3) with
  | some b0, some b1, some b2, some b3 => some (wordOfBytes b0 b1 b2 b3)
  | _, _, _, _ => none

/-- Write word `k`. -/
def Memory.setWord (m : Memory) (k : Nat) (w : Word) : Memory :=
  let d := Memory.unspecified
  Memory.write d (Memory.write d (Memory.write d (Memory.write d m (4 * k + 3) (w.byte 3))
    (4 * k + 2) (w.byte 2)) (4 * k + 1) (w.byte 1)) (4 * k) (w.byte 0)

/-- Write the words of a list from word `k` up. -/
def Memory.setWords (m : Memory) (k : Nat) : List Word → Memory
  | [] => m
  | w :: ws => (Memory.setWords m (k + 1) ws).setWord k w

/-- Write 0 to the first `n` words. -/
def Memory.zeroWords (m : Memory) : Nat → Memory
  | 0 => m
  | n + 1 => (Memory.zeroWords m n).setWord n 0#32

/-- Entry `x` of a gamma table (`spec/20_memory.md` rule R105). -/
def Memory.entry (m : Memory) (x : Byte) : Byte :=
  match m.read Memory.identity x.toNat with
  | some b => b
  | none => x

/-- Write entry `x` of a gamma table (R105). -/
def Memory.setEntry (m : Memory) (x v : Byte) : Memory := m.write Memory.identity x.toNat v

/-- Write the entries of a list from entry `k` up. -/
def Memory.setEntries (m : Memory) (k : Nat) : List Byte → Memory
  | [] => m
  | v :: vs => (Memory.setEntries m (k + 1) vs).write Memory.identity k v

/-! ## Free values -/

/-- The value of a word read that has none of its own: the `n`-th free value from here (R106, R112). -/
def State.wordOr (s : State) (n : Nat) (o : Option Word) : Word :=
  match o with
  | some w => w
  | none => Config.freeWord (s.env.draws + n)

/-- `n` free values have been drawn. -/
def State.drew (s : State) (n : Nat) : State := { s with env := { s.env with draws := s.env.draws + n } }

/-- The next event and the state without it: the oldest listed one, else a free one (R418). -/
def State.nextEvent (s : State) : Event × State :=
  match s.env.events with
  | e :: es => (e, { s with env := { s.env with events := es } })
  | [] => (Config.freeEvent s.env.draws, s.drew 1)

/-! ## Completion of a command (R21, R300, R350) -/

/-- `complete(code)` and `raise CmdFail(code)`: the step that ends a command. -/
def State.complete (s : State) (code : RetCode) : State :=
  { s with seq := { s.seq with result := code, hold := .none, cmdBusy := false, phase := .start } }

/-- The running command's next step is that of phase `p`, and `HOLD` becomes `h`. -/
def State.goto (s : State) (p : Phase) (h : Hold) : State :=
  { s with seq := { s.seq with phase := p, hold := h } }

/-! ## The output levels (`spec/42_dma_scheduler.md` rule R285) -/

/-- The level a lane drives: a lane whose enable is 0 drives 0. -/
def Lane.drive (l : Lane) (v : Bool) : Lane := { l with out := l.oe && v }

/-- A lane emptied and at its idle level (R286). -/
def Lane.flush (l : Lane) (idle : Bool) : Lane := Lane.drive { l with left := 0 } idle

/-- `Flush()` (R286): the FIFO empty, every lane empty and at its idle level `snap[l].invert`. -/
def State.flush (s : State) : State :=
  { s with ser := { s.ser with
      fifo := []
      lane := { ch0 := s.ser.lane.ch0.flush s.snap.ch0.invert
                ch1 := s.ser.lane.ch1.flush s.snap.ch1.invert } } }

/-! ## The DMA error entry and the return from it -/

/-- `raise DmaError(cause)` (R362): the scheduler stops, the cause is recorded, the data in flight is flushed,
and the transfer is over. `END`, `INT`, `DMA_CONBLK_AD` and the loaded-block registers keep their values. -/
def State.raiseDmaError (s : State) (cause : DmaCause) : State :=
  { s.flush with
    dma := { s.dma with active := false, loaded := false, error := true, errCause := cause }
    seq := { s.seq with
      xferErr := true
      state := if s.seq.state = .submitted then .complete else s.seq.state } }

/-- `END`, `INT`, `ERROR` and `ERR_CAUSE` cleared: the return from a DMA error (R363), a part of RENDER's clear
step (R320), of arming (R262), of FINI (R334) and of INIT's commit (R312). -/
def Dma.clearStatus (d : Dma) : Dma :=
  { d with ended := false, int := false, error := false, errCause := .none }

end Sys2Proof.Machine
end

