-- ==== Sys2Proof/Machine/Operands.lean ====
section
/-! DEFINITION. The operand forms: the fixed constants, the layout code, the codes of the enumerations, the
profile and the pins, the mode, the frame geometry, and the addresses of both address spaces. -/

namespace Sys2Proof.Machine

/-! ## Fixed constants -/

/-- `FREQ_MIN` in Hz (R8). -/
def freqMin : Nat := 400000

/-- `DIVI_MIN` (R12). -/
def diviMin : Nat := 2

/-- `DIVI_MAX` (R12). -/
def diviMax : Nat := 4095

/-- `SPB`, the sub-bits of a data bit (R15). -/
def spb : Nat := 3

/-- `RESET_US` (R15). -/
def resetUs : Nat := 55

/-- `LATCH_US` (R15). -/
def latchUs : Nat := 300

/-- `CB_SLOTS` (R10). -/
def cbSlots : Nat := 8

/-! ## Codes -/

/-- The encoding of `STATE` (R32). -/
def RState.code : RState → BitVec 3
  | .uninit => 0#3
  | .idle => 1#3
  | .encoding => 2#3
  | .submitted => 3#3
  | .complete => 4#3

/-- The encoding of `HOLD` (R33). -/
def Hold.code : Hold → BitVec 3
  | .none => 0#3
  | .prior => 1#3
  | .latch => 2#3
  | .clock => 3#3
  | .waitCmd => 4#3
  | .work => 5#3

/-- The encoding of `MODE` (R34). -/
def Mode.code : Mode → BitVec 2
  | .pwm => 0#2
  | .pcm => 1#2
  | .spi => 2#2

/-- The value of a return code (R170). -/
def RetCode.value : RetCode → Int
  | .success => 0
  | .genericFailure => -1
  | .outOfMemory => -2
  | .hardwareNotSupported => -3
  | .memLock => -4
  | .mmap => -5
  | .mapRegisters => -6
  | .gpioInit => -7
  | .pwmSetup => -8
  | .mailboxDevice => -9
  | .dma => -10
  | .illegalGpio => -11
  | .pcmSetup => -12
  | .spiSetup => -13
  | .spiTransfer => -14

/-- `RESULT`'s word: 32-bit two's complement (R35, R170). -/
def RetCode.word (c : RetCode) : Word := BitVec.ofInt 32 c.value

/-- The encoding of `ERR_CAUSE` (R175). -/
def DmaCause.code : DmaCause → BitVec 4
  | .none => 0#4
  | .cbAddr => 1#4
  | .cbFormat => 2#4
  | .lenAlign => 3#4
  | .srcBus => 4#4
  | .destBus => 5#4
  | .fifoOverflow => 6#4
  | .underrun => 7#4

/-- `SetupErr(mode)` (R171). -/
def Mode.setupErr : Mode → RetCode
  | .pwm => .pwmSetup
  | .pcm => .pcmSetup
  | .spi => .spiSetup

/-- `PERMAP(mode)` (R162). -/
def Mode.permap : Mode → BitVec 5
  | .pwm => 5#5
  | .pcm => 2#5
  | .spi => 6#5

/-- The lane count of a mode (R154, R218). -/
def Mode.lanes : Mode → Nat
  | .pwm => 2
  | .pcm => 1
  | .spi => 1

/-! ## The layout code (`spec/30_encoding.md` rules R145 to R147) -/

/-- The four shifts of a layout code, in slot order. -/
structure Shifts where
  s0 : Byte
  s1 : Byte
  s2 : Byte
  s3 : Byte
  deriving DecidableEq, Repr

/-- Decoding a layout code (R146). -/
def layoutShifts (l : Word) : Shifts :=
  { s0 := l.field 16 8, s1 := l.field 8 8, s2 := l.field 0 8, s3 := l.field 24 8 }

/-- Encoding four shifts (R146): `{S3, S0, S1, S2}`. -/
def layoutOfShifts (s : Shifts) : Word := s.s3 ++ s.s0 ++ s.s1 ++ s.s2

/-- `WPRESENT`: `LAYOUT[31:28] ≠ 0` (R145). -/
def layoutWhite (l : Word) : Bool := l.field 28 4 != 0#4

/-- A byte position of the pixel word (R147). -/
def bytePosition (s : Byte) : Bool := s == 0#8 || s == 8#8 || s == 16#8 || s == 24#8

/-- `Supported(L)` (R147). -/
def layoutSupported (l : Word) : Bool :=
  let s := layoutShifts l
  let three := bytePosition s.s0 && bytePosition s.s1 && bytePosition s.s2 &&
    s.s0 != s.s1 && s.s0 != s.s2 && s.s1 != s.s2
  if layoutWhite l then
    three && bytePosition s.s3 && s.s0 != s.s3 && s.s1 != s.s3 && s.s2 != s.s3
  else three

/-! ## Profiles, pins and the mode (`spec/43_renderer_commands.md` rules R304, R305, R307, R310) -/

/-- `Lookup(id)`: the first profile with that id (R307). -/
def lookupProfile (c : Config) (id : Word) : Option Profile := c.profiles.find? (fun p => p.id == id)

/-- `f ∈ PinFn(p)` (R304); `PinFn(0)` is empty. -/
def hasPinFn (c : Config) (p : Byte) (f : PinFn) : Bool := p != 0#8 && c.pinFunctions.contains (p, f)

/-- The mode (R305), from channel 0's activity and pin. -/
def selectMode (c : Config) (act0 : Bool) (gpio0 : Byte) : Mode :=
  if act0 then
    if hasPinFn c gpio0 .pcmDout then .pcm
    else if hasPinFn c gpio0 .spiMosi then .spi
    else .pwm
  else .pwm

/-- `PinsOK(mode, act, gpio)` (R310). -/
def pinsOk (c : Config) (m : Mode) (act : Pair Bool) (gpio : Pair Byte) : Bool :=
  match m with
  | .pwm =>
    (!act.ch0 || hasPinFn c gpio.ch0 .pwm0) && (!act.ch1 || hasPinFn c gpio.ch1 .pwm1) &&
      (!(act.ch0 && act.ch1) || gpio.ch0 != gpio.ch1)
  | .pcm => hasPinFn c gpio.ch0 .pcmDout
  | .spi => hasPinFn c gpio.ch0 .spiMosi

/-! ## Snapshots and sizes (`spec/41_channel_encoder.md` rules R211, R212, R219) -/

/-- The snapshot of one channel (R211). -/
def snapOf (r : ChanRegs) (active : Bool) : Snap :=
  { count := if active then r.count else 0#16
    layout := r.layout
    white := layoutWhite r.layout
    brightness := r.brightness
    invert := active && r.invert }

/-- `TakeSnapshot` of both channels (R211). -/
def snapsOf (r : Pair ChanRegs) (active : Pair Bool) : Pair Snap :=
  { ch0 := snapOf r.ch0 active.ch0, ch1 := snapOf r.ch1 active.ch1 }

/-- `bpp(s)`: data bits per pixel (R212). -/
def Snap.bpp (s : Snap) : Nat := if s.white then 32 else 24

/-- `bits(s)` (R212). -/
def Snap.bits (s : Snap) : Nat := s.count.toNat * s.bpp

/-- `subbits(s)` (R212). -/
def Snap.subbits (s : Snap) : Nat := spb * s.bits

/-- `words(s)` (R212). -/
def Snap.words (s : Snap) : Nat := ceilDiv s.subbits 32

/-- The frame geometry `(D, T, L)` (R219). -/
structure Geometry where
  d : Nat
  t : Nat
  l : Nat
  deriving DecidableEq, Repr

/-- `N = (D + T) · L`: the symbol words of the frame (R219). -/
def Geometry.n (g : Geometry) : Nat := (g.d + g.t) * g.l

/-- `T`: the tail words per lane (R219). -/
def tailWords (freq : Nat) : Nat := ceilDiv (resetUs * spb * freq) (32 * 10 ^ 6)

/-- The geometry of a frame (R219). -/
def geometry (m : Mode) (freq : Word) (sn : Pair Snap) : Geometry :=
  { d := match m with
      | .pwm => max sn.ch0.words sn.ch1.words
      | .pcm => sn.ch0.words
      | .spi => sn.ch0.words
    t := tailWords freq.toNat
    l := m.lanes }

/-! ## DMA addresses (`spec/20_memory.md` rules R110, R111; `spec/42_dma_scheduler.md` rule R263) -/

/-- `CB_BASE`, the first control block's address. -/
def cbBase : Word := 0x00100000#32

/-- `FIFO_DATA`, the FIFO's write port. -/
def fifoData : Word := 0x00200000#32

/-- `CBAddrOK(a)` (R263). -/
def cbAddrOk (a : Word) : Bool :=
  decide (a.toNat % 32 = 0 ∧ cbBase.toNat ≤ a.toNat ∧ a.toNat < cbBase.toNat + 32 * cbSlots)

/-- `SrcOK(a)` (R263). -/
def srcOk (c : Config) (a : Word) : Bool := decide (a.toNat % 4 = 0 ∧ a.toNat < 4 * c.symWords)

/-- `DestOK(a)` (R263). -/
def destOk (c : Config) (a : Word) : Bool :=
  decide (a.toNat % 4 = 0 ∧ (a.toNat < 4 * c.symWords ∨ a = fifoData))

/-! ## Host offsets (`spec/10_state.md` sections 4 and 5; `spec/20_memory.md` rules R101, R103, R104) -/

/-- The registers of the host map. -/
inductive Reg where
  | status
  | result
  | cmd
  | freq
  | dmanum
  | gammaFactor
  | profile
  | coreHz
  | timeLo
  | timeHi
  | rwaitLo
  | rwaitHi
  | clkCtl
  | clkDiv
  | dmaCs
  | dmaConblkAd
  | dmaTi
  | dmaSourceAd
  | dmaDestAd
  | dmaTxfrLen
  | dmaNextconbk
  | fifoLevel
  | geometry
  | gpio (n : Chan)
  | invert (n : Chan)
  | count (n : Chan)
  | layout (n : Chan)
  | brightness (n : Chan)
  | shifts (n : Chan)
  | latched (n : Chan)
  deriving DecidableEq, Repr

/-- The offset of a register (R34 to R58); channel `n`'s block is at `0x080 + 0x20·n`. -/
def Reg.offset : Reg → Nat
  | .status => 0x000
  | .result => 0x004
  | .cmd => 0x008
  | .freq => 0x00C
  | .dmanum => 0x010
  | .gammaFactor => 0x014
  | .profile => 0x018
  | .coreHz => 0x01C
  | .timeLo => 0x020
  | .timeHi => 0x024
  | .rwaitLo => 0x028
  | .rwaitHi => 0x02C
  | .clkCtl => 0x030
  | .clkDiv => 0x034
  | .dmaCs => 0x038
  | .dmaConblkAd => 0x03C
  | .dmaTi => 0x040
  | .dmaSourceAd => 0x044
  | .dmaDestAd => 0x048
  | .dmaTxfrLen => 0x04C
  | .dmaNextconbk => 0x050
  | .fifoLevel => 0x054
  | .geometry => 0x058
  | .gpio n => 0x080 + 0x20 * n.toNat + 0x00
  | .invert n => 0x080 + 0x20 * n.toNat + 0x04
  | .count n => 0x080 + 0x20 * n.toNat + 0x08
  | .layout n => 0x080 + 0x20 * n.toNat + 0x0C
  | .brightness n => 0x080 + 0x20 * n.toNat + 0x10
  | .shifts n => 0x080 + 0x20 * n.toNat + 0x14
  | .latched n => 0x080 + 0x20 * n.toNat + 0x18

/-- The registers of one channel (R52 to R58); `+0x1C` is reserved. -/
def chanRegs (n : Chan) : List Reg :=
  [.gpio n, .invert n, .count n, .layout n, .brightness n, .shifts n, .latched n]

/-- All registers (R34 to R58). -/
def allRegs : List Reg :=
  [.status, .result, .cmd, .freq, .dmanum, .gammaFactor, .profile, .coreHz] ++
    [.timeLo, .timeHi, .rwaitLo, .rwaitHi, .clkCtl, .clkDiv] ++
    [.dmaCs, .dmaConblkAd, .dmaTi, .dmaSourceAd, .dmaDestAd, .dmaTxfrLen, .dmaNextconbk] ++
    [.fifoLevel, .geometry] ++ chanRegs .ch0 ++ chanRegs .ch1

/-- The register at an offset below `0x100`; the offsets of no register are reserved (R51). -/
def regAt (o : Nat) : Option Reg := allRegs.find? (fun r => r.offset == o)

/-- What a host offset names. -/
inductive HostTarget where
  | reg (r : Reg)
  /-- word `j` of CB RAM. -/
  | cb (j : Nat)
  /-- entry `i` of a gamma table. -/
  | gamma (n : Chan) (i : Byte)
  /-- word `i` of pixel RAM, `i < MAX_LEDS`. -/
  | pixel (n : Chan) (i : Nat)
  /-- word `k` of symbol RAM, `k < SYM_WORDS`. -/
  | sym (k : Nat)
  /-- a reserved offset (R51), or a window word beyond the RAM (R104): reads 0, writes ignored. -/
  | reserved
  deriving DecidableEq, Repr

/-- A word of a pixel window (R103, R104). -/
def pixelTarget (c : Config) (n : Chan) (i : Nat) : HostTarget :=
  if i < c.maxLeds then .pixel n i else .reserved

/-- The host map (R34 to R58, R103, R104), of an offset that is a multiple of 4. Each window starts at a multiple
of its size, so the word's index is the offset's remainder by that size, divided by 4. -/
def hostTarget (c : Config) (offset : BitVec 20) : HostTarget :=
  let o := offset.toNat
  if o < 0x100 then
    match regAt o with
    | some r => .reg r
    | none => .reserved
  else if o < 0x200 then .cb (o % 0x100 / 4)
  else if o < 0x400 then .reserved
  else if o < 0x800 then .gamma .ch0 (BitVec.ofNat 8 (o % 0x400 / 4))
  else if o < 0xC00 then .gamma .ch1 (BitVec.ofNat 8 (o % 0x400 / 4))
  else if o < 0x10000 then .reserved
  else if o < 0x20000 then pixelTarget c .ch0 (o % 0x10000 / 4)
  else if o < 0x30000 then pixelTarget c .ch1 (o % 0x10000 / 4)
  else if o < 0x40000 then .reserved
  else if o < 0x80000 then
    if o % 0x40000 / 4 < c.symWords then .sym (o % 0x40000 / 4) else .reserved
  else .reserved

/-- The offset of a platform address inside the block's window, where it has one (R101). -/
def platformOffset (c : Config) (address : Nat) : Option (BitVec 20) :=
  if c.base ≤ address ∧ address < 2 ^ 20 + c.base then some (BitVec.ofNat 20 (address - c.base)) else none

end Sys2Proof.Machine
end

