-- ==== Sys2Proof/Machine/Flags.lean ====
section
/-! DEFINITION. Every flag computation: the words `STATUS`, `DMA_CS`, `CLK_CTL` and the other registers that are
packed from fields, the DREQ level, the hazard flag, and the condition of each hold. -/

namespace Sys2Proof.Machine

/-! ## Packed registers (`spec/10_state.md`) -/

/-- `STATUS` (R34). -/
def State.statusWord (s : State) : Word :=
  0#11 ++ BitVec.ofBool s.seq.chainValid ++ BitVec.ofBool s.lat.active.ch1 ++
    BitVec.ofBool s.lat.active.ch0 ++ s.lat.mode.code ++ 0#5 ++ s.seq.hold.code ++ 0#1 ++
    BitVec.ofBool s.seq.bufHazard ++ BitVec.ofBool s.seq.cmdLost ++ BitVec.ofBool s.seq.xferErr ++
    BitVec.ofBool s.seq.cmdBusy ++ s.seq.state.code

/-- A write of `v` to `STATUS` clears `CMD_LOST` and `BUF_HAZARD` where the written bit is 1 (R34). -/
def Seq.writeStatus (q : Seq) (v : Word) : Seq :=
  { q with
    cmdLost := q.cmdLost && !v.getLsbD 5
    bufHazard := q.bufHazard && !v.getLsbD 6 }

/-- DREQ (`spec/42_dma_scheduler.md` rule R269). -/
def State.dreq (s : State) : Bool :=
  let p := (tiFields s.dma.ti).permap
  s.dma.loaded &&
    (p == 0#5 || (p == s.lat.mode.permap && decide (s.ser.fifo.length < s.cfg.fifoDepth)))

/-- `DMA_CS` (R46). -/
def State.dmaCsWord (s : State) : Word :=
  0#12 ++ s.dma.errCause.code ++ 0#7 ++ BitVec.ofBool s.dma.error ++ 0#4 ++ BitVec.ofBool s.dreq ++
    BitVec.ofBool s.dma.int ++ BitVec.ofBool s.dma.ended ++ BitVec.ofBool s.dma.active

/-- `CLK_CTL` (R44). -/
def State.clkCtlWord (s : State) : Word :=
  0#24 ++ BitVec.ofBool s.env.busy ++ 0#2 ++ BitVec.ofBool s.clk.enab ++ 0#4

/-- `CLK_DIV` (R45). -/
def State.clkDivWord (s : State) : Word := 0#8 ++ s.clk.divi ++ 0#12

/-- `FIFO_LEVEL` (R48). -/
def State.fifoLevelWord (s : State) : Word := 0#24 ++ BitVec.ofNat 8 s.ser.fifo.length

/-- `GEOMETRY` (R50). -/
def State.geometryWord (s : State) : Word :=
  s.lat.geometry.lanes ++ s.lat.geometry.t ++ s.lat.geometry.d

/-- `ch[n].LATCHED` (R58, R211). -/
def Snap.latchedWord (s : Snap) : Word :=
  s.brightness ++ 0#6 ++ BitVec.ofBool s.invert ++ BitVec.ofBool s.white ++ s.count

/-! ## The hazard flag (`spec/70_reset_and_hazards.md` rule R402) -/

/-- A pixel write sets `BUF_HAZARD` in these states. -/
def RState.pixelHazard : RState → Bool
  | .encoding => true
  | .submitted => true
  | _ => false

/-- A gamma write sets `BUF_HAZARD` in this state. -/
def RState.gammaHazard : RState → Bool
  | .encoding => true
  | _ => false

/-! ## The clocks and the holds -/

/-- The sub-bit clock runs (`spec/40_clock_divider.md` rule R196). -/
def State.clockRuns (s : State) : Bool := s.clk.enab && s.env.busy

/-- `TIME_US − t0 ≥ bound`, on integers (R19). -/
def State.elapsed (s : State) (t0 : BitVec 64) (bound : Nat) : Bool :=
  decide (t0.toNat + bound ≤ s.tim.timeUs.toNat)

/-- A hold on the clock manager is over (R198, R200): it answers, or, where it may fail, the bound has passed;
with `CLOCK_MAY_FAIL = false` there is no timeout (R197). -/
def State.clockHoldOver (s : State) (target : Bool) (t0 : BitVec 64) : Bool :=
  s.env.busy == target || (s.cfg.clockMayFail && s.elapsed t0 s.cfg.clkTimeoutUs)

/-- `HOLD` at a point where the clock engine may have to wait (R198): `CLOCK` only during a hold. -/
def State.clockHold (s : State) (target : Bool) : Hold :=
  if s.clockHoldOver target s.tim.timeUs then .none else .clock

/-- WAIT's hold is over (`spec/43_renderer_commands.md` rule R331). -/
def State.waitHoldOver (s : State) (t0 : BitVec 64) : Bool :=
  s.seq.state != .submitted || s.elapsed t0 s.cfg.waitTimeoutUs

/-- The latch interval has passed (R320 step 3). -/
def State.latchOver (s : State) : Bool := decide (s.tim.renderWait.toNat ≤ s.tim.timeUs.toNat)

end Sys2Proof.Machine
end

