-- ==== Sys2Proof/Machine/Clock.lean ====
section
/-! DEFINITION. The clock engine: the divider (`spec/40_clock_divider.md` rules R190 to R193) and its assignments
to `CLK_CTL` and `CLK_DIV`; and the clock manager (R195). -/

namespace Sys2Proof.Machine

/-- The target sub-bit frequency `f_sub = 3 · freq` (R190). -/
def subBitFreq (freq : Nat) : Nat := spb * freq

/-- `ComputeDivider(core_hz, freq)` (R192). -/
def computeDivider (coreHz freq : Nat) : Nat :=
  let f := subBitFreq freq
  let q := coreHz / f
  if q = 0 then 1
  else if coreHz % f = 0 then q
  else
    let d1 := q
    let d2 := q + 1
    if coreHz * (d1 + d2) ≤ 2 * f * d1 * d2 then d1 else d2

/-- The divider is in range (R193). -/
def dividerOk (d : Nat) : Bool := decide (diviMin ≤ d ∧ d ≤ diviMax)

/-- `CLK_CTL.ENAB <- v`. -/
def State.setEnab (s : State) (v : Bool) : State := { s with clk := { s.clk with enab := v } }

/-- `CLK_DIV.DIVI <- d` (step B of R198). -/
def State.setDivi (s : State) (d : BitVec 12) : State := { s with clk := { s.clk with divi := d } }

/-- The clock manager's only step: where `BUSY ≠ ENAB`, `BUSY <- ENAB` (R195). -/
def State.clockManagerStep (s : State) : State := { s with env := { s.env with busy := s.clk.enab } }

end Sys2Proof.Machine
end

