-- ==== Sys2Proof/Machine/Encoder.lean ====
section
/-! DEFINITION. The channel encoder and the gamma tables: the per-pixel transform, the sub-bit stream, the symbol
words, and `GammaGen`. `spec/41_channel_encoder.md` rules R213 to R232. -/

namespace Sys2Proof.Machine

/-! ## The per-pixel transform -/

/-- `Scale(c, b)` (R213). -/
def scale (c b : Byte) : Byte := BitVec.ofNat 8 ((127 + c.toNat * b.toNat) / 255)

/-- `Correct(n, c)` (R214), of a channel's gamma table and brightness. -/
def correct (gamma : Memory) (brightness c : Byte) : Byte := gamma.entry (scale c brightness)

/-- The byte of a pixel word at a shift (R215). -/
def pixelByte (p : Word) (shift : Byte) : Byte := p.extractLsb' shift.toNat 8

/-- The wire group of a pixel word (R215); a group of 24 bits stands in the low bits of the word. -/
def wireGroup (sn : Snap) (gamma : Memory) (p : Word) : Word :=
  let s := layoutShifts sn.layout
  let out (shift : Byte) : Byte := correct gamma sn.brightness (pixelByte p shift)
  if sn.white then out s.s0 ++ out s.s1 ++ out s.s2 ++ out s.s3
  else 0#8 ++ out s.s0 ++ out s.s1 ++ out s.s2

/-! ## The lane stream -/

/-- Data bit `b` of a channel: bit `bpp − 1 − (b mod bpp)` of the group of pixel `b div bpp` (R216). -/
def dataBit (sn : Snap) (groups : List Word) (b : Nat) : Bool :=
  ((groups[b / sn.bpp]?).getD 0#32).getLsbD (sn.bpp - 1 - b % sn.bpp)

/-- Sub-bit `j` of a channel's data: `1, bit, 0` for each data bit (R217). -/
def dataSubBit (sn : Snap) (groups : List Word) (j : Nat) : Bool :=
  if j % spb = 0 then true
  else if j % spb = 1 then dataBit sn groups (j / spb)
  else false

/-- Sub-bit `j` of a lane's stream: data, then padding and tail of value 0, all complemented when the lane is
inverted (R220). -/
def laneSubBit (sn : Snap) (groups : List Word) (j : Nat) : Bool :=
  (if j < sn.subbits then dataSubBit sn groups j else false) != sn.invert

/-- The word whose bit `31 − m` is `f m` (R153). -/
def wordOfSubBits (f : Nat → Bool) : Word :=
  BitVec.ofNat 32 ((List.range 32).foldl (fun acc m => 2 * acc + (f m).toNat) 0)

/-- `W_l[k]`: word `k` of a lane (R221). -/
def laneWord (sn : Snap) (groups : List Word) (k : Nat) : Word :=
  wordOfSubBits (fun m => laneSubBit sn groups (32 * k + m))

/-- Symbol word `q` of a frame of `l` lanes: word `q div l` of lane `q mod l` (R154, R221). -/
def symbolWord (l : Nat) (sn : Pair Snap) (groups : Pair (List Word)) (q : Nat) : Word :=
  if q % l = 0 then laneWord sn.ch0 groups.ch0 (q / l) else laneWord sn.ch1 groups.ch1 (q / l)

/-- `Encode` (R223): the symbol words of a frame, from the snapshots and the wire groups of the pixels read. -/
def encodeFrame (g : Geometry) (sn : Pair Snap) (groups : Pair (List Word)) : List Word :=
  (List.range g.n).map (symbolWord g.l sn groups)

/-! ## The encoder's steps (R225) -/

/-- The wire group the encoder makes at its step for pixel `i` of channel `n`, from pixel RAM and gamma RAM as
they stand. -/
def State.readGroup (s : State) (n : Chan) (i : Nat) : Word :=
  wireGroup (s.snap.get n) (s.ram.gamma.get n) (s.wordOr 0 ((s.ram.pixel.get n).word? i))

/-- The encoder's last step: it writes `sym[0]` to `sym[N − 1]` (R222, R225). -/
def State.writeFrame (s : State) (groups : Pair (List Word)) : State :=
  { s with ram := { s.ram with
      sym := s.ram.sym.setWords 0 (encodeFrame (geometry s.lat.mode s.lat.freqL s.snap) s.snap groups) } }

/-! ## Gamma tables (R231, R232) -/

/-- Whether `m ≤ 255 · (i / 255)^(p/q) + 1/2`, for `m ≥ 1`: both sides of `2m − 1 ≤ 510 · (i/255)^(p/q)` to the
power `q`, in integers. -/
def gammaReaches (p q i m : Nat) : Bool := decide ((2 * m - 1) ^ q * 255 ^ p ≤ i ^ p * 510 ^ q)

/-- The greatest `m` that adds some of the given bits to `acc` and is still reached, taking the bits in order. -/
def gammaSearch (p q i : Nat) : List Nat → Nat → Nat
  | [], acc => acc
  | b :: bs, acc => gammaSearch p q i bs (if gammaReaches p q i (acc + b) then acc + b else acc)

/-- `out[i]` of `GammaGen(F)` (R231): the exponent `F / 65536` in lowest terms, and the rounded power by its
bits, the highest first. -/
def gammaOut (f i : Nat) : Nat :=
  let g := Nat.gcd f 65536
  gammaSearch (f / g) (65536 / g) i [128, 64, 32, 16, 8, 4, 2, 1] 0

/-- `GammaGen(F)` (R231). -/
def gammaGen (f : Word) : List Byte := (List.range 256).map (fun i => BitVec.ofNat 8 (gammaOut f.toNat i))

/-- The write of a generated table to channel `n` (`spec/43_renderer_commands.md` rule R330). -/
def State.writeGamma (s : State) (n : Chan) (table : List Byte) : State :=
  { s with ram := { s.ram with
      gamma := s.ram.gamma.set n ((s.ram.gamma.get n).setEntries 0 table) } }

end Sys2Proof.Machine
end

