-- ==== Sys2Proof/Machine/Chain.lean ====
section
/-! DEFINITION. The chain builder and arming. `spec/42_dma_scheduler.md` rules R250 to R254, R262. -/

namespace Sys2Proof.Machine

/-- The transfer information of the builder's data block (R164, R252). -/
def dataTi (m : Mode) : TransferInfo :=
  { inten := false, destInc := false, destDreq := true, srcInc := true, permap := m.permap }

/-- The transfer information of the builder's tail block: the same with `INTEN` (R164, R252). -/
def tailTi (m : Mode) : TransferInfo := { dataTi m with inten := true }

/-- CB0, the data words (R252). -/
def dataBlock (m : Mode) (g : Geometry) : CtrlBlock :=
  { ti := dataTi m, sourceAd := 0#32, destAd := fifoData, txfrLen := BitVec.ofNat 32 (4 * g.l * g.d),
    stride := 0#32, nextConbk := cbBase + 0x20#32, word6 := 0#32, word7 := 0#32 }

/-- CB1, the reset tail (R252). -/
def tailBlock (m : Mode) (g : Geometry) : CtrlBlock :=
  { ti := tailTi m, sourceAd := BitVec.ofNat 32 (4 * g.l * g.d), destAd := fifoData,
    txfrLen := BitVec.ofNat 32 (4 * g.l * g.t), stride := 0#32, nextConbk := 0#32,
    word6 := 0#32, word7 := 0#32 }

/-- CB RAM words 0 to 15 of a chain (R252). -/
def chainWords (m : Mode) (g : Geometry) : List Word :=
  encode (.cb (dataBlock m g)) ++ encode (.cb (tailBlock m g))

/-- What the chain is built for (R252). -/
def builtFor (sn : Pair Snap) : Pair BuiltFor :=
  { ch0 := { count := sn.ch0.count, layout := sn.ch0.layout }
    ch1 := { count := sn.ch1.count, layout := sn.ch1.layout } }

/-- `BuildChain(D, T, L, mode)` (R252), for the current snapshot. -/
def State.buildChain (s : State) (m : Mode) (g : Geometry) : State :=
  { s with
    ram := { s.ram with cb := s.ram.cb.setWords 0 (chainWords m g) }
    lat := { s.lat with
      geometry := { d := BitVec.ofNat 16 g.d, t := BitVec.ofNat 14 g.t, lanes := BitVec.ofNat 2 g.l }
      built := some (builtFor s.snap) }
    seq := { s.seq with chainValid := true } }

/-- The chain in CB RAM is for this configuration (R254). -/
def State.chainKept (s : State) : Bool :=
  s.seq.chainValid && s.lat.built == some (builtFor s.snap)

/-- Rebuild or keep (R254). -/
def State.buildPhase (s : State) : State :=
  if s.chainKept then s
  else s.buildChain s.lat.mode (geometry s.lat.mode s.lat.freqL s.snap)

/-- `Arm()` (R262). -/
def State.arm (s : State) : State :=
  { s with dma := { s.dma.clearStatus with conblkAd := cbBase, loaded := false, active := true } }

/-- The latch interval's end (`spec/43_renderer_commands.md` rule R322), modulo `2^64`. The
numerals stand first in the sum and in the product: the kernel unfolds a numeral that stands last. -/
def State.nextRenderTime (s : State) : BitVec 64 :=
  let maxbits := max s.snap.ch0.bits s.snap.ch1.bits
  BitVec.ofNat 64 (latchUs + ceilDiv (10 ^ 6 * maxbits) s.lat.freqL.toNat + s.tim.timeUs.toNat)

end Sys2Proof.Machine
end

