-- ==== Sys2Proof/Machine/Scheduler.lean ====
section
/-! DEFINITION. The DMA scheduler: the fetch's address check, the load, the move, the finish and the completion.
`spec/42_dma_scheduler.md` rules R260 to R276. -/

namespace Sys2Proof.Machine

/-! ## Fetch (R264) -/

/-- The `n`-th word of the control block at `DMA_CONBLK_AD`; an unwritten word of CB RAM is drawn (R106). -/
def State.blockWord (s : State) (n : Nat) : Word :=
  s.wordOr n (s.ram.cb.word? ((s.dma.conblkAd - cbBase).toNat / 4 + n))

/-- The control block at `DMA_CONBLK_AD`, as the decoder reads it. -/
def State.fetchBlock (s : State) : Except DecodeError Instr :=
  decodeBlock (s.blockWord 0) (s.blockWord 1) (s.blockWord 2) (s.blockWord 3) (s.blockWord 4)
    (s.blockWord 5) (s.blockWord 6) (s.blockWord 7)

/-- The fetch (R264): the address check (R265), then the decoded block; a block the decoder rejects, one with a
reserved `TI` bit, is ill-formed (R163). -/
def State.fetch (s : State) : Except DmaCause Instr :=
  if !cbAddrOk s.dma.conblkAd then .error .cbAddr
  else
    match s.fetchBlock with
    | .ok i => .ok i
    | .error .reservedTiBits => .error .cbFormat
    | .error .truncated => .error .cbFormat

/-- The state after the fetch has read its eight words. -/
def State.fetched (s : State) : State := s.drew 8

/-- The rest of the fetch step once the block is decoded: the checks of R264 in their order (R267), then the
loaded-block registers. -/
def State.loadBlock (s : State) (b : CtrlBlock) : State :=
  if !b.wellFormed then s.raiseDmaError .cbFormat
  else if b.txfrLen.field 0 2 != 0#2 then s.raiseDmaError .lenAlign
  else
    { s with dma := { s.dma with
        ti := tiWord b.ti, sourceAd := b.sourceAd, destAd := b.destAd, txfrLen := b.txfrLen,
        nextConbk := b.nextConbk, loaded := true } }

/-- The loaded block as an instruction: the loaded-block registers read back as fields (R47, R64). -/
def State.loadedBlock (s : State) : CtrlBlock :=
  { ti := tiFields s.dma.ti, sourceAd := s.dma.sourceAd, destAd := s.dma.destAd, txfrLen := s.dma.txfrLen,
    stride := 0#32, nextConbk := s.dma.nextConbk, word6 := 0#32, word7 := 0#32 }

/-! ## Move (R270, R271) -/

/-- The word at a source address; an unwritten word of symbol RAM is drawn (R112). -/
def State.sourceWord (s : State) (a : Word) : Word := s.wordOr 0 (s.ram.sym.word? (a.toNat / 4))

/-- Push a word at the FIFO's tail (R280). -/
def State.push (s : State) (v : Word) : State := { s with ser := { s.ser with fifo := s.ser.fifo ++ [v] } }

/-- The write of a word move (R271). -/
def State.writeDest (s : State) (d v : Word) : State :=
  if d = fifoData then s.push v
  else { s with ram := { s.ram with sym := s.ram.sym.setWord (d.toNat / 4) v } }

/-- The registers after a word has moved (R271). -/
def Dma.advance (d : Dma) : Dma :=
  { d with
    sourceAd := if (tiFields d.ti).srcInc then d.sourceAd + 4#32 else d.sourceAd
    destAd := if (tiFields d.ti).destInc then d.destAd + 4#32 else d.destAd
    txfrLen := d.txfrLen - 4#32 }

/-- The move step (R271), its checks in their order (R267). -/
def State.moveWord (s : State) : State :=
  let src := s.dma.sourceAd
  let dst := s.dma.destAd
  if !srcOk s.cfg src then s.raiseDmaError .srcBus
  else if !destOk s.cfg dst then s.raiseDmaError .destBus
  else if dst = fifoData ∧ s.cfg.fifoDepth ≤ s.ser.fifo.length then s.raiseDmaError .fifoOverflow
  else { (s.writeDest dst (s.sourceWord src)).drew 1 with dma := s.dma.advance }

/-- The scheduler may move a word (R270): the block is not paced, or its DREQ is asserted. -/
def State.moveReady (s : State) : Bool := !(tiFields s.dma.ti).destDreq || s.dreq

/-! ## Finish and chain advance (R272, R273) -/

/-- The finish step. -/
def State.finishBlock (s : State) : State :=
  let d := { s.dma with int := s.dma.int || (tiFields s.dma.ti).inten, loaded := false }
  if d.nextConbk = 0#32 then { s with dma := { d with ended := true, active := false } }
  else { s with dma := { d with conblkAd := d.nextConbk } }

/-- The step of a loaded block (R260): finish, move, or hold. -/
def State.runLoaded (s : State) : State :=
  if s.dma.txfrLen = 0#32 then s.finishBlock
  else if s.moveReady then s.moveWord
  else s

/-! ## Completion (R276) -/

/-- The completion step is enabled. -/
def State.completionReady (s : State) : Bool :=
  s.seq.state == .submitted && !s.dma.active && s.dma.ended && s.dma.int && s.ser.fifo.isEmpty &&
    s.ser.lane.ch0.left == 0 && s.ser.lane.ch1.left == 0

/-- The completion step, where it is enabled. -/
def State.completionStep (s : State) : State :=
  if s.completionReady then { s with seq := { s.seq with state := .complete } } else s

end Sys2Proof.Machine
end

