-- ==== Sys2Proof/Machine/Serializer.lean ====
section
/-! DEFINITION. The serializer's tick. `spec/42_dma_scheduler.md` rules R280 to R285. -/

namespace Sys2Proof.Machine

/-- A lane with a new word in its shift register. -/
def Lane.load (l : Lane) (v : Word) : Lane := { l with shreg := v, left := 32 }

/-- One sub-bit of a lane: the shift register's bit 31 while it holds sub-bits, else the idle level (R281, R282). -/
def Lane.shift (l : Lane) (idle : Bool) : Lane :=
  if 0 < l.left then Lane.drive { l with shreg := l.shreg <<< 1, left := l.left - 1 } (l.shreg.getLsbD 31)
  else l.drive idle

/-- The lanes of the serializer take their next words, lane 0 first (R282); the FIFO holds at least `lanes`
words. -/
def Ser.loadLanes (r : Ser) (lanes : Nat) : Ser :=
  { r with
    fifo := r.fifo.drop lanes
    lane :=
      { ch0 := if 0 < lanes then r.lane.ch0.load ((r.fifo[0]?).getD 0#32) else r.lane.ch0
        ch1 := if 1 < lanes then r.lane.ch1.load ((r.fifo[1]?).getD 0#32) else r.lane.ch1 } }

/-- Every lane in use sends one sub-bit. -/
def Ser.shiftLanes (r : Ser) (lanes : Nat) (idle : Pair Bool) : Ser :=
  { r with lane :=
      { ch0 := if 0 < lanes then r.lane.ch0.shift idle.ch0 else r.lane.ch0
        ch1 := if 1 < lanes then r.lane.ch1.shift idle.ch1 else r.lane.ch1 } }

/-- `idle(l)` (R285). -/
def State.idleLevels (s : State) : Pair Bool := { ch0 := s.snap.ch0.invert, ch1 := s.snap.ch1.invert }

/-- The serializer takes ticks: it is enabled and the sub-bit clock runs (R282). -/
def State.ticks (s : State) : Bool := s.ser.enabled && s.clockRuns

/-- A tick would find every lane empty and too few words in the FIFO while the scheduler runs (R283). -/
def State.starved (s : State) : Bool :=
  s.ser.lane.ch0.left == 0 && decide (s.ser.fifo.length < s.lat.lanes) && s.dma.active

/-- The tick's ordinary case. -/
def State.shiftStep (s : State) : State :=
  let r :=
    if s.ser.lane.ch0.left = 0 ∧ s.lat.lanes ≤ s.ser.fifo.length then s.ser.loadLanes s.lat.lanes
    else s.ser
  { s with ser := r.shiftLanes s.lat.lanes s.idleLevels }

/-- One period of the sub-bit clock (R282, R283). -/
def State.tick (s : State) : State :=
  if !s.ticks then s
  else if s.starved then
    match s.cfg.transferErrors with
    | .anytime => s.raiseDmaError .underrun
    | .never => s
  else s.shiftStep

/-- `led_oe` at INIT's commit (R285). -/
def outputEnables (m : Mode) (active : Pair Bool) : Pair Bool :=
  match m with
  | .pwm => active
  | .pcm => { ch0 := active.ch0, ch1 := false }
  | .spi => { ch0 := active.ch0, ch1 := false }

/-- The serializer enabled at INIT's commit, each lane at its idle level (R285, R312). -/
def Ser.enable (r : Ser) (oe idle : Pair Bool) : Ser :=
  { r with
    enabled := true
    lane := { ch0 := Lane.drive { r.lane.ch0 with oe := oe.ch0 } idle.ch0
              ch1 := Lane.drive { r.lane.ch1 with oe := oe.ch1 } idle.ch1 } }

/-- The serializer disabled by FINI: outputs and enables 0 (R334). -/
def Ser.disable (r : Ser) : Ser :=
  { r with
    enabled := false
    lane := { ch0 := { r.lane.ch0 with out := false, oe := false }
              ch1 := { r.lane.ch1 with out := false, oe := false } } }

end Sys2Proof.Machine
end

