-- ==== Sys2Proof/Machine/Commands.lean ====
section
/-! DEFINITION. The commands: one meaning per opcode, the step the running command takes from the phase it has
reached. A hold whose condition is false is a step that changes nothing (log entry 2). A phase that is not the
command's own is taken as `start` (log entry 20). `spec/43_renderer_commands.md`. -/

namespace Sys2Proof.Machine

/-! ## INIT (R310 to R314) -/

/-- `act[n] = ch[n].COUNT > 0` (R310). -/
def State.wanted (s : State) : Pair Bool :=
  { ch0 := decide (0 < s.regs.chan.ch0.count.toNat), ch1 := decide (0 < s.regs.chan.ch1.count.toNat) }

/-- `mode` (R305, R310). -/
def State.wantedMode (s : State) : Mode := selectMode s.cfg s.wanted.ch0 s.regs.chan.ch0.gpio

/-- The snapshots of step 8 (R211, R310). -/
def State.wantedSnaps (s : State) : Pair Snap := snapsOf s.regs.chan s.wanted

/-- The geometry of step 10 (R219, R310). -/
def State.wantedGeometry (s : State) : Geometry := geometry s.wantedMode s.regs.freq s.wantedSnaps

/-- The divider of step 11 (R192, R310). -/
def State.wantedDivider (s : State) (prof : Profile) : Nat :=
  computeDivider prof.coreHz.toNat s.regs.freq.toNat

/-- Step 3 fails: an active channel without a pin. -/
def State.pinMissing (s : State) : Bool :=
  (s.wanted.ch0 && s.regs.chan.ch0.gpio == 0#8) || (s.wanted.ch1 && s.regs.chan.ch1.gpio == 0#8)

/-- Step 4 fails: an active channel with an unsupported layout. -/
def State.layoutBad (s : State) : Bool :=
  (s.wanted.ch0 && !layoutSupported s.regs.chan.ch0.layout) ||
    (s.wanted.ch1 && !layoutSupported s.regs.chan.ch1.layout)

/-- The pins of step 6 are allowed. -/
def State.pinsAllowed (s : State) : Bool :=
  pinsOk s.cfg s.wantedMode s.wanted { ch0 := s.regs.chan.ch0.gpio, ch1 := s.regs.chan.ch1.gpio }

/-- What the later steps of INIT need, of a profile. -/
def State.initArgs (s : State) (prof : Profile) : InitArgs :=
  { mode := s.wantedMode, active := s.wanted, prof := prof, freq := s.regs.freq, snap := s.wantedSnaps,
    divi := BitVec.ofNat 12 (s.wantedDivider prof) }

/-- Step 3 to 11, in order, the first failing one wins (R310). -/
def State.setupChecks (s : State) (prof : Profile) : Option RetCode :=
  if s.pinMissing then some .illegalGpio
  else if s.layoutBad then some .genericFailure
  else if s.wantedMode ≠ .pwm ∧ s.wanted.ch1 = true then some s.wantedMode.setupErr
  else if !s.pinsAllowed then some .illegalGpio
  else if s.regs.freq.toNat < freqMin then some s.wantedMode.setupErr
  else if !prof.dmaMask.getLsbD s.regs.dmanum.toNat then some .dma
  else if s.cfg.maxLeds < s.regs.chan.ch0.count.toNat ∨ s.cfg.maxLeds < s.regs.chan.ch1.count.toNat then
    some .outOfMemory
  else if s.cfg.symWords < s.wantedGeometry.n then some .dma
  else if !dividerOk (s.wantedDivider prof) then some s.wantedMode.setupErr
  else none

/-- Step 1 to 11: the checks, in order, the first failing one wins; else what the later steps need (R310). -/
def State.initChecks (s : State) : Except RetCode InitArgs :=
  if s.seq.state ≠ .uninit then .error .genericFailure
  else
    match lookupProfile s.cfg s.env.profileId with
    | none => .error .hardwareNotSupported
    | some prof =>
      match s.setupChecks prof with
      | some code => .error code
      | none => .ok (s.initArgs prof)

/-- Pixel RAM of both channels zeroed (R312). -/
def State.zeroPixels (s : State) : State :=
  { s with ram := { s.ram with
      pixel := { ch0 := s.ram.pixel.ch0.zeroWords s.cfg.maxLeds
                 ch1 := s.ram.pixel.ch1.zeroWords s.cfg.maxLeds } } }

/-- The commit (R312), but for its completion. -/
def State.initCommit (s : State) (a : InitArgs) : State :=
  let latched : State :=
    { s with
      lat := { s.lat with
        mode := a.mode, active := a.active, prof := some a.prof, coreHz := a.prof.coreHz, freqL := a.freq,
        lanes := a.mode.lanes }
      snap := a.snap }
  let built := latched.zeroPixels.buildChain a.mode (geometry a.mode a.freq a.snap)
  { built with
    tim := { built.tim with renderWait := 0#64 }
    dma := built.dma.clearStatus
    ser := built.ser.enable (outputEnables a.mode a.active) built.idleLevels
    seq := { built.seq with xferErr := false, state := .idle } }

/-- INIT: opcode `0x01`. -/
def execInit (s : State) : Host.Outcome State Fault Refusal :=
  match s.seq.phase with
  | .initDisable a => .next ((s.setEnab false).goto (.initProgram a s.tim.timeUs) (s.clockHold false))
  | .initProgram a t0 =>
    if !s.clockHoldOver false t0 then .next s
    else if s.env.busy then .next (s.complete a.mode.setupErr)
    else .next ((s.setDivi a.divi).goto (.initEnable a) .none)
  | .initEnable a => .next ((s.setEnab true).goto (.initCommit a s.tim.timeUs) (s.clockHold true))
  | .initCommit a t0 =>
    if !s.clockHoldOver true t0 then .next s
    else if !s.env.busy then .next ((s.setEnab false).complete a.mode.setupErr)
    else .next ((s.initCommit a).complete .success)
  | _ =>
    match s.initChecks with
    | .error code => .next (s.complete code)
    | .ok a => .next (s.goto (.initDisable a) .none)

/-! ## FINI (R334) -/

/-- Step 2: stop the DMA, then the outputs. -/
def State.finiStop (s : State) : State :=
  let f := s.flush
  { f with
    dma := { s.dma.clearStatus with active := false, loaded := false }
    ser := f.ser.disable }

/-- Step 4: back to `UNINIT`. -/
def State.finiRelease (s : State) : State :=
  { s with
    seq := { s.seq with state := .uninit, chainValid := false, xferErr := false }
    lat := { s.lat with
      mode := .pwm, active := { ch0 := false, ch1 := false }, lanes := 0, freqL := 0#32, prof := none,
      built := none, coreHz := 0#32 }
    tim := { s.tim with renderWait := 0#64 } }

/-- FINI: opcode `0x02`. Its completion writes `RESULT` with `Success` (R334, R35, R300; P-3 of `95_test_vectors.md`).
How R393's list of what FINI keeps is read beside that is log entry 27. -/
def execFini (s : State) : Host.Outcome State Fault Refusal :=
  match s.seq.phase with
  | .finiDisable => .next ((s.setEnab false).goto (.finiRelease s.tim.timeUs) (s.clockHold false))
  | .finiRelease t0 =>
    if !s.clockHoldOver false t0 then .next s else .next (s.finiRelease.complete .success)
  | _ =>
    if s.seq.state = .uninit then .next (s.complete .success)
    else .next (s.finiStop.goto .finiDisable .none)

/-! ## RENDER (R320 to R324) -/

/-- Steps 4 and 5: clear, and take the snapshot. -/
def State.renderClear (s : State) : State :=
  { s with
    seq := { s.seq with state := .idle, xferErr := false }
    dma := s.dma.clearStatus
    snap := snapsOf s.regs.chan s.lat.active }

/-- Step 6: the checks of the snapshot, in order. -/
def State.renderCheck (s : State) : Option RetCode :=
  let bad (n : Chan) : Bool :=
    decide (0 < (s.snap.get n).count.toNat) && !layoutSupported (s.snap.get n).layout
  if bad .ch0 || bad .ch1 then some .genericFailure
  else if s.cfg.maxLeds < s.snap.ch0.count.toNat ∨ s.cfg.maxLeds < s.snap.ch1.count.toNat then
    some .outOfMemory
  else if s.cfg.symWords < (geometry s.lat.mode s.lat.freqL s.snap).n then some .dma
  else none

/-- One step of the encoder (R225): the next pixel of channel 0, else of channel 1, else the symbol words. -/
def State.encodeStep (s : State) (g0 g1 : List Word) : State :=
  if g0.length < s.snap.ch0.count.toNat then
    (s.drew 1).goto (.renderEncode (g0 ++ [s.readGroup .ch0 g0.length]) g1) .work
  else if g1.length < s.snap.ch1.count.toNat then
    (s.drew 1).goto (.renderEncode g0 (g1 ++ [s.readGroup .ch1 g1.length])) .work
  else (s.writeFrame { ch0 := g0, ch1 := g1 }).goto .renderBuild .work

/-- Step 10, but for its completion: the next render time, `SUBMITTED`, and `Arm()` (R322). -/
def State.renderArm (s : State) : State :=
  { s.arm with
    tim := { s.tim with renderWait := s.nextRenderTime }
    seq := { s.seq with state := .submitted } }

/-- RENDER: opcode `0x03`. -/
def execRender (s : State) : Host.Outcome State Fault Refusal :=
  match s.seq.phase with
  | .renderPrior => if s.seq.state = .submitted then .next s else .next (s.goto .renderLatch .latch)
  | .renderLatch =>
    if !s.latchOver then .next s
    else
      match s.renderClear.renderCheck with
      | some code => .next (s.renderClear.complete code)
      | none => .next (s.renderClear.goto .renderEnter .none)
  | .renderEnter =>
    .next (({ s with seq := { s.seq with state := .encoding } } : State).goto (.renderEncode [] []) .work)
  | .renderEncode g0 g1 => .next (s.encodeStep g0 g1)
  | .renderBuild => .next (s.buildPhase.goto .renderArm .work)
  | .renderArm => .next (s.renderArm.complete .success)
  | _ =>
    if s.seq.state = .uninit then .next (s.complete .genericFailure)
    else .next (s.goto .renderPrior .prior)

/-! ## WAIT (R331) -/

/-- WAIT: opcode `0x04`. -/
def execWait (s : State) : Host.Outcome State Fault Refusal :=
  match s.seq.phase with
  | .waitHold t0 =>
    if !s.waitHoldOver t0 then .next s
    else if s.seq.state = .submitted ∨ s.seq.xferErr = true then .next (s.complete .dma)
    else .next (s.complete .success)
  | _ =>
    if s.seq.state = .uninit then .next (s.complete .genericFailure)
    else if s.seq.state = .idle then .next (s.complete .success)
    else .next (s.goto (.waitHold s.tim.timeUs) .waitCmd)

/-! ## SET_GAMMA (R330) -/

/-- SET_GAMMA: opcode `0x05`, channel operand `ch`. -/
def execSetGamma (ch : Chan) (s : State) : Host.Outcome State Fault Refusal :=
  if s.regs.gammaFactor = 0#32 then .next (s.complete .genericFailure)
  else .next ((s.writeGamma ch (gammaGen s.regs.gammaFactor)).complete .success)

/-! ## Malformed command words (R340) -/

/-- Any other command word: it completes with GenericFailure, whatever its fields. -/
def execCmdMalformed (_op : Byte) (_ch : Bool) (_rsvd : BitVec 23) (s : State) :
    Host.Outcome State Fault Refusal :=
  .next (s.complete .genericFailure)

end Sys2Proof.Machine
end

