-- ==== Sys2Proof/Machine/ControlBlock.lean ====
section
/-! DEFINITION. The control block's meaning: the step the DMA scheduler takes of it. `spec/42_dma_scheduler.md`
rules R260 to R273. -/

namespace Sys2Proof.Machine

/-- One step of a control block (R260): while none is loaded, the rest of its fetch (R264); once loaded, a move
(R271), the finish (R272), or a hold, all read from the loaded-block registers (R64). -/
def execCb (b : CtrlBlock) (s : State) : Host.Outcome State Fault Refusal :=
  if s.dma.loaded then .next s.runLoaded else .next (s.loadBlock b)

end Sys2Proof.Machine
end

