-- ==== Sys2Proof/Machine/HostPort.lean ====
section
/-! DEFINITION. The host port, the timer and reset. `spec/20_memory.md` rules R100 to R108,
`spec/10_state.md` sections 4 to 7, `spec/70_reset_and_hazards.md` rules R390 and R402. -/

namespace Sys2Proof.Machine

/-! ## Reads -/

/-- The value a read of a register returns. -/
def State.readReg (s : State) (r : Reg) : Word :=
  match r with
  | .status => s.statusWord
  | .result => s.seq.result.word
  | .cmd => s.seq.cmd
  | .freq => s.regs.freq
  | .dmanum => s.regs.dmanum.zeroExtend 32
  | .gammaFactor => s.regs.gammaFactor
  | .profile => s.env.profileId
  | .coreHz => s.lat.coreHz
  | .timeLo => s.tim.timeUs.extractLsb' 0 32
  | .timeHi => s.tim.timeHiShadow
  | .rwaitLo => s.tim.renderWait.extractLsb' 0 32
  | .rwaitHi => s.tim.rwaitHiShadow
  | .clkCtl => s.clkCtlWord
  | .clkDiv => s.clkDivWord
  | .dmaCs => s.dmaCsWord
  | .dmaConblkAd => s.dma.conblkAd
  | .dmaTi => s.dma.ti
  | .dmaSourceAd => s.dma.sourceAd
  | .dmaDestAd => s.dma.destAd
  | .dmaTxfrLen => s.dma.txfrLen
  | .dmaNextconbk => s.dma.nextConbk
  | .fifoLevel => s.fifoLevelWord
  | .geometry => s.geometryWord
  | .gpio n => (s.regs.chan.get n).gpio.zeroExtend 32
  | .invert n => (BitVec.ofBool (s.regs.chan.get n).invert).zeroExtend 32
  | .count n => (s.regs.chan.get n).count.zeroExtend 32
  | .layout n => (s.regs.chan.get n).layout
  | .brightness n => (s.regs.chan.get n).brightness.zeroExtend 32
  | .shifts n => (s.snap.get n).layout
  | .latched n => (s.snap.get n).latchedWord

/-- The side effect of a register read: `TIME_LO` and `RWAIT_LO` copy the high word into its shadow (R108). -/
def State.readEffect (s : State) (r : Reg) : State :=
  match r with
  | .timeLo => { s with tim := { s.tim with timeHiShadow := s.tim.timeUs.extractLsb' 32 32 } }
  | .rwaitLo => { s with tim := { s.tim with rwaitHiShadow := s.tim.renderWait.extractLsb' 32 32 } }
  | _ => s

/-- The port answers a read with a value. -/
def State.answer (s : State) (v : Word) : State := { s with env := { s.env with bus := .data v } }

/-- A host read (R103 to R106); a word that has not been written is drawn. -/
def State.hostRead (s : State) (t : HostTarget) : State :=
  match t with
  | .reg r => (s.readEffect r).answer (s.readReg r)
  | .cb j => (s.drew 1).answer (s.wordOr 0 (s.ram.cb.word? j))
  | .gamma n i => s.answer (((s.ram.gamma.get n).entry i).zeroExtend 32)
  | .pixel n i => (s.drew 1).answer (s.wordOr 0 ((s.ram.pixel.get n).word? i))
  | .sym k => (s.drew 1).answer (s.wordOr 0 (s.ram.sym.word? k))
  | .reserved => s.answer 0#32

/-! ## Writes -/

/-- A write of `v` to `CMD`: accepted, or dropped while a command runs (R300, R301). -/
def Seq.writeCmd (q : Seq) (v : Word) : Seq :=
  if q.cmdBusy then { q with cmdLost := true }
  else { q with cmd := v, cmdBusy := true, phase := .start }

/-- Update the registers of channel `n`. -/
def Regs.setChan (g : Regs) (n : Chan) (f : ChanRegs → ChanRegs) : Regs :=
  { g with chan := g.chan.set n (f (g.chan.get n)) }

/-- The effect of a register write; a read-only register ignores it (R104). -/
def State.writeReg (s : State) (r : Reg) (v : Word) : State :=
  match r with
  | .status => { s with seq := s.seq.writeStatus v }
  | .cmd => { s with seq := s.seq.writeCmd v }
  | .freq => { s with regs := { s.regs with freq := v } }
  | .dmanum => { s with regs := { s.regs with dmanum := v.field 0 4 } }
  | .gammaFactor => { s with regs := { s.regs with gammaFactor := v } }
  | .gpio n => { s with regs := s.regs.setChan n (fun c => { c with gpio := v.field 0 8 }) }
  | .invert n => { s with regs := s.regs.setChan n (fun c => { c with invert := v.getLsbD 0 }) }
  | .count n => { s with regs := s.regs.setChan n (fun c => { c with count := v.field 0 16 }) }
  | .layout n => { s with regs := s.regs.setChan n (fun c => { c with layout := v }) }
  | .brightness n => { s with regs := s.regs.setChan n (fun c => { c with brightness := v.field 0 8 }) }
  | .result => s
  | .profile => s
  | .coreHz => s
  | .timeLo => s
  | .timeHi => s
  | .rwaitLo => s
  | .rwaitHi => s
  | .clkCtl => s
  | .clkDiv => s
  | .dmaCs => s
  | .dmaConblkAd => s
  | .dmaTi => s
  | .dmaSourceAd => s
  | .dmaDestAd => s
  | .dmaTxfrLen => s
  | .dmaNextconbk => s
  | .fifoLevel => s
  | .geometry => s
  | .shifts _ => s
  | .latched _ => s

/-- `BUF_HAZARD` set where the condition holds (R402). -/
def Seq.hazard (q : Seq) (h : Bool) : Seq := { q with bufHazard := q.bufHazard || h }

/-- The effect of a host write (R103 to R105, R402). -/
def State.writeTarget (s : State) (t : HostTarget) (v : Word) : State :=
  match t with
  | .reg r => s.writeReg r v
  | .gamma n i =>
    { s with
      ram := { s.ram with gamma := s.ram.gamma.set n ((s.ram.gamma.get n).setEntry i (v.field 0 8)) }
      seq := s.seq.hazard s.seq.state.gammaHazard }
  | .pixel n i =>
    { s with
      ram := { s.ram with pixel := s.ram.pixel.set n ((s.ram.pixel.get n).setWord i v) }
      seq := s.seq.hazard s.seq.state.pixelHazard }
  | .cb _ => s
  | .sym _ => s
  | .reserved => s

/-- A host write, and the port's answer. -/
def State.hostWrite (s : State) (t : HostTarget) (v : Word) : State :=
  let s' := s.writeTarget t v
  { s' with env := { s'.env with bus := .written } }

/-! ## Accesses -/

/-- The port takes an access of this width at this offset (R100, R102). -/
def accessOk (offset : BitVec 20) (bytes : Nat) : Bool := bytes == 4 && offset.toNat % 4 == 0

/-- A host access (R100, R102). -/
def State.hostAccess (s : State) (offset : BitVec 20) (bytes : Nat) (op : HostOp) :
    Host.Outcome State Fault Refusal :=
  if !accessOk offset bytes then .refused .busError
  else
    match op with
    | .read => .next (s.hostRead (hostTarget s.cfg offset))
    | .write v => .next (s.hostWrite (hostTarget s.cfg offset) v)

/-- An access at a platform address: the block's, where the address is in its window (R101); else it is not
addressed to the block. -/
def State.platformAccess (s : State) (address bytes : Nat) (op : HostOp) :
    Host.Outcome State Fault Refusal :=
  match platformOffset s.cfg address with
  | some offset => s.hostAccess offset bytes op
  | none => .next s

/-! ## Timer and reset -/

/-- `tick_1us` (R60). -/
def State.timerTick (s : State) : State :=
  { s with tim := { s.tim with timeUs := s.tim.timeUs + 1#64 } }

/-- `rst_n` falls or rises: every piece of state has its reset value once it has risen (R390). The parameters,
the `profile_id` input, the events to come and the count of free values are not the block's state. -/
def State.resetHigh (s : State) : State :=
  { State.reset with
    cfg := s.cfg
    env := { Env.reset with profileId := s.env.profileId, events := s.env.events, draws := s.env.draws } }

/-- `rst_n` falls (R390). -/
def State.resetLow (s : State) : State := { s with env := { s.env with rstN := false } }

/-- The `profile_id` input takes a value (R30). -/
def State.setProfileId (s : State) (v : Word) : State := { s with env := { s.env with profileId := v } }

end Sys2Proof.Machine
end

