-- ==== Sys2Proof/Machine/Dispatch.lean ====
section
/-! DEFINITION. One arm per constructor of `Instr`: each instruction's next step. -/

namespace Sys2Proof.Machine

def exec (i : Instr) (s : State) : Host.Outcome State Fault Refusal :=
  match i with
  | .init => Sys2Proof.Machine.execInit s
  | .fini => Sys2Proof.Machine.execFini s
  | .render => Sys2Proof.Machine.execRender s
  | .wait => Sys2Proof.Machine.execWait s
  | .setGamma ch => Sys2Proof.Machine.execSetGamma ch s
  | .cmdMalformed op ch rsvd => Sys2Proof.Machine.execCmdMalformed op ch rsvd s
  | .cb b => Sys2Proof.Machine.execCb b s

end Sys2Proof.Machine
end

