-- ==== Sys2Proof/Machine/Step.lean ====
section
/-! DEFINITION. One step of the machine: the next event, and the turn it gives. `spec/00_scope.md` rule R3,
`spec/70_reset_and_hazards.md` rules R390 and R418. -/

namespace Sys2Proof.Machine

/-- The command sequencer's turn: the next step of the command in `CMD`, where one runs (R300). -/
def sequencerTurn (s : State) : Host.Outcome State Fault Refusal :=
  if s.seq.cmdBusy then exec (decodeCmd s.seq.cmd) s else .next s

/-- The fetch of the control block at `DMA_CONBLK_AD` (R264), and the block's first step. -/
def fetchTurn (s : State) : Host.Outcome State Fault Refusal :=
  match s.fetch with
  | .ok i => exec i s.fetched
  | .error cause => .next (s.fetched.raiseDmaError cause)

/-- The DMA scheduler's turn (R260): completion, or the next step of the control block. -/
def schedulerTurn (s : State) : Host.Outcome State Fault Refusal :=
  if !s.dma.active then .next s.completionStep
  else if s.dma.loaded then exec (.cb s.loadedBlock) s
  else fetchTurn s

/-- What an event does out of reset. -/
def turn (e : Event) (s : State) : Host.Outcome State Fault Refusal :=
  match e with
  | .host offset bytes op => s.hostAccess offset bytes op
  | .platform address bytes op => s.platformAccess address bytes op
  | .sequencer => sequencerTurn s
  | .scheduler => schedulerTurn s
  | .serializer => .next s.tick
  | .clockManager => .next s.clockManagerStep
  | .timer => .next s.timerTick
  | .resetLow => .next s.resetLow
  | .resetHigh => .next s
  | .setProfileId _ => .next s

/-- What an event does while `rst_n = 0` (R390): no agent takes a step and the port refuses accesses. -/
def turnInReset (e : Event) (s : State) : Host.Outcome State Fault Refusal :=
  match e with
  | .host _ _ _ => .refused .inReset
  | .platform address _ _ => if (platformOffset s.cfg address).isSome then .refused .inReset else .next s
  | .resetHigh => .next s.resetHigh
  | .setProfileId v => .next (s.setProfileId v)
  | .sequencer => .next s
  | .scheduler => .next s
  | .serializer => .next s
  | .clockManager => .next s
  | .timer => .next s
  | .resetLow => .next s

/-- One step. -/
def step (s : State) : Host.Outcome State Fault Refusal :=
  let (e, s') := s.nextEvent
  if s'.env.rstN then turn e s' else turnInReset e s'

/-! ## Placing an instruction -/

/-- The sequencer's turn comes next and `CMD` holds a word just accepted. -/
def State.withCommand (s : State) (w : Word) : State :=
  { s with
    seq := { s.seq with cmd := w, cmdBusy := true, phase := .start }
    env := { s.env with rstN := true, events := .sequencer :: s.env.events } }

/-- The scheduler's turn comes next and fetches the words placed in CB RAM's first slot. -/
def State.withBlock (s : State) (ws : List Word) : State :=
  { s with
    ram := { s.ram with cb := s.ram.cb.setWords 0 ws }
    dma := { s.dma with conblkAd := cbBase, active := true, loaded := false }
    env := { s.env with rstN := true, events := .scheduler :: s.env.events } }

/-- `s` with a table row's instruction placed where the next step fetches it (log entry 3). -/
def State.withFetchWord (s : State) (nbits w : Nat) : State :=
  match tableSpace nbits w with
  | .command => s.withCommand (tableWord nbits w 0)
  | .controlBlock => s.withBlock ((List.range 8).map (tableWord nbits w))

end Sys2Proof.Machine
end

