-- ==== Sys2Proof/Safety.lean ====
section
/-! DEFINITION. What the claims speak of: a safe step, the invariant of the block, the quiescent state, the steps
of `STATE`, and fairness of an infinite run. -/

namespace Sys2Proof.Machine

/-! ## Safe steps -/

/-- A step is safe when it answers a next state. -/
def State.safe (s : State) : Prop := ∃ t, step s = .next t

/-- The access the next event makes, where it is one that reaches the port. -/
def State.hostEvent (s : State) : Prop :=
  match s.nextEvent.1 with
  | .host _ _ _ => True
  | .platform address _ _ => (platformOffset s.cfg address).isSome = true
  | _ => False

/-! ## The memories, byte by byte -/

/-- The six memories of the four RAMs (R59). -/
inductive RamName where
  | pixel (n : Chan)
  | gamma (n : Chan)
  | sym
  | cb
  deriving DecidableEq, Repr

/-- What an unlisted byte of a RAM reads as. -/
def RamName.unlisted : RamName → Nat → Option Byte
  | .pixel _ => Memory.unspecified
  | .gamma _ => Memory.identity
  | .sym => Memory.unspecified
  | .cb => Memory.unspecified

/-- A RAM's contents. -/
def State.memory (s : State) : RamName → Memory
  | .pixel n => s.ram.pixel.get n
  | .gamma n => s.ram.gamma.get n
  | .sym => s.ram.sym
  | .cb => s.ram.cb

/-- The byte at an address of a RAM, where it has a value. -/
def State.byteAt (s : State) (r : RamName) (a : Nat) : Option Byte := (s.memory r).read r.unlisted a

/-- Every byte of every RAM reads in `t` as in `s`, but for the bytes stored to. -/
def SameBytesBut (s t : State) (stored : RamName → Nat → Prop) : Prop :=
  ∀ r a, ¬ stored r a → t.byteAt r a = s.byteAt r a

/-! ## The quiescent state (`spec/60_exceptions.md` rule R375) -/

/-- DMA stopped, FIFO and lanes empty, outputs disabled. -/
structure State.Quiet (s : State) : Prop where
  dmaStopped : s.dma.active = false
  fifoEmpty  : s.ser.fifo = []
  disabled   : s.ser.enabled = false
  lane0      : s.ser.lane.ch0.left = 0 ∧ s.ser.lane.ch0.out = false ∧ s.ser.lane.ch0.oe = false
  lane1      : s.ser.lane.ch1.left = 0 ∧ s.ser.lane.ch1.out = false ∧ s.ser.lane.ch1.oe = false

/-- Nothing is held: the latched configuration is that of reset, but for `GEOMETRY`, which FINI keeps. -/
structure State.Released (s : State) : Prop where
  latched      : s.lat = { Latched.reset with geometry := s.lat.geometry }
  noChain      : s.seq.chainValid = false
  noWait       : s.tim.renderWait = 0#64

/-! ## The pieces of the invariant -/

/-- Channels that are not active contribute nothing (R211), and one lane modes have channel 0 only (R306). -/
structure SnapsOk (m : Mode) (active : Pair Bool) (sn : Pair Snap) : Prop where
  inactive0  : active.ch0 = false → sn.ch0.count = 0#16 ∧ sn.ch0.invert = false
  inactive1  : active.ch1 = false → sn.ch1.count = 0#16 ∧ sn.ch1.invert = false
  singleLane : m ≠ .pwm → active.ch1 = false

/-- The frame fits the RAMs (R310 steps 9 and 10, R320 step 6). -/
structure FrameOk (c : Config) (m : Mode) (freq : Word) (sn : Pair Snap) : Prop where
  leds0  : sn.ch0.count.toNat ≤ c.maxLeds
  leds1  : sn.ch1.count.toNat ≤ c.maxLeds
  fits   : (geometry m freq sn).n ≤ c.symWords

/-- The white bit is the layout's (R145, R211). -/
def WhiteOk (sn : Pair Snap) : Prop :=
  sn.ch0.white = layoutWhite sn.ch0.layout ∧ sn.ch1.white = layoutWhite sn.ch1.layout

/-- What INIT carries from its checks to its commit (R310). -/
structure InitArgs.Ok (c : Config) (a : InitArgs) : Prop where
  snaps : SnapsOk a.mode a.active a.snap
  frame : FrameOk c a.mode a.freq a.snap
  white : WhiteOk a.snap
  divi  : diviMin ≤ a.divi.toNat
  freq  : freqMin ≤ a.freq.toNat

/-- The values of `HOLD` a phase can have (R33). -/
def Phase.holdOk : Phase → Hold → Prop
  | .start, h => h = .none
  | .initDisable _, h => h = .none
  | .initProgram _ _, h => h = .none ∨ h = .clock
  | .initEnable _, h => h = .none
  | .initCommit _ _, h => h = .none ∨ h = .clock
  | .finiDisable, h => h = .none
  | .finiRelease _, h => h = .none ∨ h = .clock
  | .renderPrior, h => h = .prior
  | .renderLatch, h => h = .latch
  | .renderEnter, h => h = .none
  | .renderEncode _ _, h => h = .work
  | .renderBuild, h => h = .work
  | .renderArm, h => h = .work
  | .waitHold _, h => h = .waitCmd

/-- FINI has stopped the DMA and the outputs and has not yet released the configuration. -/
def Phase.stopping : Phase → Prop
  | .finiDisable => True
  | .finiRelease _ => True
  | _ => False

/-- What holds at each phase of a command (R310, R320, R331, R334). -/
def State.PhaseOk (s : State) : Prop :=
  match s.seq.phase with
  | .start => s.seq.state ≠ .encoding
  | .initDisable a => decodeCmd s.seq.cmd = .init ∧ s.seq.state = .uninit ∧ a.Ok s.cfg
  | .initProgram a _ =>
    decodeCmd s.seq.cmd = .init ∧ s.seq.state = .uninit ∧ a.Ok s.cfg ∧ s.clk.enab = false
  | .initEnable a =>
    decodeCmd s.seq.cmd = .init ∧ s.seq.state = .uninit ∧ a.Ok s.cfg ∧ s.clk.enab = false ∧
      s.clk.divi = a.divi
  | .initCommit a _ =>
    decodeCmd s.seq.cmd = .init ∧ s.seq.state = .uninit ∧ a.Ok s.cfg ∧ s.clk.enab = true ∧
      s.clk.divi = a.divi
  | .finiDisable =>
    decodeCmd s.seq.cmd = .fini ∧ s.seq.state ≠ .uninit ∧ s.seq.state ≠ .encoding ∧ s.Quiet
  | .finiRelease _ =>
    decodeCmd s.seq.cmd = .fini ∧ s.seq.state ≠ .uninit ∧ s.seq.state ≠ .encoding ∧ s.Quiet ∧
      s.clk.enab = false
  | .renderPrior =>
    decodeCmd s.seq.cmd = .render ∧ s.seq.state ≠ .uninit ∧ s.seq.state ≠ .encoding
  | .renderLatch =>
    decodeCmd s.seq.cmd = .render ∧ (s.seq.state = .idle ∨ s.seq.state = .complete)
  | .renderEnter =>
    decodeCmd s.seq.cmd = .render ∧ s.seq.state = .idle ∧
      FrameOk s.cfg s.lat.mode s.lat.freqL s.snap
  | .renderEncode g0 g1 =>
    decodeCmd s.seq.cmd = .render ∧ s.seq.state = .encoding ∧
      FrameOk s.cfg s.lat.mode s.lat.freqL s.snap ∧
      g0.length ≤ s.snap.ch0.count.toNat ∧ g1.length ≤ s.snap.ch1.count.toNat
  | .renderBuild =>
    decodeCmd s.seq.cmd = .render ∧ s.seq.state = .encoding ∧
      FrameOk s.cfg s.lat.mode s.lat.freqL s.snap
  | .renderArm =>
    decodeCmd s.seq.cmd = .render ∧ s.seq.state = .encoding ∧
      FrameOk s.cfg s.lat.mode s.lat.freqL s.snap ∧ s.chainKept = true
  | .waitHold _ =>
    decodeCmd s.seq.cmd = .wait ∧ (s.seq.state = .submitted ∨ s.seq.state = .complete)

/-! ## The chain in CB RAM and the scheduler's place in it -/

/-- The parts of the snapshots that a chain was built for (R252). -/
def builtSnaps (b : Pair BuiltFor) : Pair Snap :=
  let one (x : BuiltFor) : Snap :=
    { count := x.count, layout := x.layout, white := layoutWhite x.layout, brightness := 0#8, invert := false }
  { ch0 := one b.ch0, ch1 := one b.ch1 }

/-- The geometry of the chain in CB RAM. -/
def State.builtGeometry (s : State) (b : Pair BuiltFor) : Geometry :=
  geometry s.lat.mode s.lat.freqL (builtSnaps b)

/-- CB RAM words 0 to 15 are the chain's (R252, R254). -/
def ChainIn (cb : Memory) (m : Mode) (g : Geometry) : Prop :=
  ∀ k w, (chainWords m g)[k]? = some w → cb.word? k = some w

/-- The loaded-block registers are those of `b`, some of its words moved: source and length add up to where its
words end (R271). -/
structure Dma.LoadedFrom (d : Dma) (b : CtrlBlock) (stop : Nat) : Prop where
  ti     : d.ti = tiWord b.ti
  dest   : d.destAd = b.destAd
  next   : d.nextConbk = b.nextConbk
  ends   : d.sourceAd.toNat + d.txfrLen.toNat = stop
  source : d.sourceAd.toNat % 4 = 0
  length : d.txfrLen.toNat % 4 = 0

/-- The scheduler is at the data block or at the tail block of the chain (R252, R273). -/
def Dma.InChain (d : Dma) (m : Mode) (g : Geometry) : Prop :=
  (d.conblkAd = cbBase ∧ (d.loaded = true → d.LoadedFrom (dataBlock m g) (4 * (g.l * g.d)))) ∨
  (d.conblkAd = cbBase + 0x20#32 ∧ (d.loaded = true → d.LoadedFrom (tailBlock m g) (4 * g.n)))

/-! ## The invariant -/

/-- What holds of every state a run reaches. -/
structure State.Inv (s : State) : Prop where
  /-- the parameters are in their ranges (R10, R11, R48, R101). -/
  cfgOk : s.cfg.ok = true
  /-- no command runs: no phase (R300). -/
  idlePhase : s.seq.cmdBusy = false → s.seq.phase = .start
  phase : s.PhaseOk
  hold : s.seq.phase.holdOk s.seq.hold
  /-- R361. -/
  activeSubmitted : s.dma.active = true → s.seq.state = .submitted
  loadedActive : s.dma.loaded = true → s.dma.active = true
  /-- R362: the error flag and its cause go together, and `XFER_ERR` stands only in `COMPLETE`. -/
  errorCause : s.dma.error = true ↔ s.dma.errCause ≠ .none
  xferErr : s.seq.xferErr = true → s.seq.state = .complete
  /-- R48. -/
  fifoBound : s.ser.fifo.length ≤ s.cfg.fifoDepth
  /-- R63, R282: the lanes are in step. -/
  left0 : s.ser.lane.ch0.left ≤ 32
  left1 : s.ser.lane.ch1.left = if s.lat.mode = .pwm then s.ser.lane.ch0.left else 0
  /-- R285: a lane whose enable is 0 drives 0. -/
  drive0 : s.ser.lane.ch0.oe = false → s.ser.lane.ch0.out = false
  drive1 : s.ser.lane.ch1.oe = false → s.ser.lane.ch1.out = false
  white : WhiteOk s.snap
  /-- `UNINIT` is the quiescent state with nothing held (R313, R334, R375). -/
  uninit : s.seq.state = .uninit → s.Quiet ∧ s.Released
  /-- the latched configuration of an initialised block (R61, R211, R306, R310). -/
  lanes : s.seq.state ≠ .uninit → s.lat.lanes = s.lat.mode.lanes
  snaps : s.seq.state ≠ .uninit → SnapsOk s.lat.mode s.lat.active s.snap
  freq : s.seq.state ≠ .uninit → freqMin ≤ s.lat.freqL.toNat
  /-- R201: the clock stays programmed and enabled from INIT until FINI; so does the serializer. -/
  running : s.seq.state ≠ .uninit → ¬ s.seq.phase.stopping →
    s.clk.enab = true ∧ s.env.busy = true ∧ diviMin ≤ s.clk.divi.toNat ∧ s.ser.enabled = true
  /-- R254: a valid chain is in CB RAM, for the configuration it was built for, and fits symbol RAM. -/
  chain : s.seq.chainValid = true → ∃ b, s.lat.built = some b ∧
    ChainIn s.ram.cb s.lat.mode (s.builtGeometry b) ∧ (s.builtGeometry b).n ≤ s.cfg.symWords
  /-- R252, R273: a running scheduler is inside the chain. -/
  armed : s.dma.active = true → s.seq.chainValid = true ∧
    ∀ b, s.lat.built = some b → s.dma.InChain s.lat.mode (s.builtGeometry b)
  /-- R276: a transfer that has stopped without an error is on its way to completion. -/
  finished : s.seq.state = .submitted → s.dma.active = false →
    s.seq.phase.stopping ∨ (s.dma.ended = true ∧ s.dma.int = true)
  /-- R276, R286: outside a transfer the FIFO and the lanes are empty. -/
  drained : s.seq.state ≠ .submitted →
    s.ser.fifo = [] ∧ s.ser.lane.ch0.left = 0 ∧ s.ser.lane.ch1.left = 0

/-! ## The steps of `STATE` (`spec/43_renderer_commands.md` rule R342) -/

/-- The transitions of R342's table, reset apart; staying is no transition. -/
def stateEdge : RState → RState → Bool
  | .uninit, .idle => true
  | .idle, .encoding => true
  | .encoding, .submitted => true
  | .submitted, .complete => true
  | .complete, .idle => true
  | .idle, .uninit => true
  | .submitted, .uninit => true
  | .complete, .uninit => true
  | _, _ => false

/-! ## The wire (`spec/42_dma_scheduler.md` rule R287) -/

/-- The sub-bits of a symbol word in the order they are sent (R281). -/
def subBitsOf (w : Word) : List Bool := (List.range 32).map (fun m => w.getLsbD (31 - m))

/-- Every other element of a list, the first one among them. -/
def everyOther {α : Type} : List α → List α
  | [] => []
  | [a] => [a]
  | a :: _ :: as => a :: everyOther as

/-- The words of lane `l` among words that the serializer pops lane 0 first (R282). -/
def laneWords (m : Mode) (l : Chan) (ws : List Word) : List Word :=
  match m with
  | .pwm => everyOther (ws.drop l.toNat)
  | .pcm => ws
  | .spi => ws

/-- The index of the next symbol word the scheduler will read of a chain of geometry `g` (R252, R264, R271,
R273); `g.n` when it has read them all. -/
def Dma.nextSource (d : Dma) (g : Geometry) : Nat :=
  if d.active then
    if d.loaded then d.sourceAd.toNat / 4
    else if d.conblkAd = cbBase then 0
    else g.l * g.d
  else g.n

/-- The sub-bits lane `l` has still to send of a frame: those left in its shift register, then those of its words
in the FIFO, then those of its words the scheduler has not moved. -/
def State.laneAhead (s : State) (g : Geometry) (frame : List Word) (l : Chan) : List Bool :=
  (subBitsOf (s.ser.lane.get l).shreg).take (s.ser.lane.get l).left ++
    (laneWords s.lat.mode l (s.ser.fifo ++ frame.drop (s.dma.nextSource g))).flatMap subBitsOf

/-- The frame of geometry `g` is in symbol RAM, and what is left of it divides among the lanes. -/
structure State.InFlight (s : State) (g : Geometry) (frame : List Word) : Prop where
  built  : ∃ b, s.lat.built = some b ∧ s.builtGeometry b = g
  length : frame.length = g.n
  stored : ∀ k w, frame[k]? = some w → s.ram.sym.word? k = some w
  whole  : (s.ser.fifo ++ frame.drop (s.dma.nextSource g)).length % g.l = 0

/-- The next event is a tick that sends one sub-bit on every lane in use (R282, R283). -/
def State.tickNext (s : State) : Prop :=
  s.nextEvent.1 = .serializer ∧ s.ticks = true ∧ s.starved = false

/-! ## Runs and fairness (`spec/42_dma_scheduler.md` rule R274, `spec/70_reset_and_hazards.md` rule R418)

Fairness is no property of one step (log entry 16): it is a premise about runs. -/

/-- The event that the outside world gives the machine next, before those the state lists. -/
def State.given (s : State) (e : Event) : State := { s with env := { s.env with events := e :: s.env.events } }

/-- An infinite run: at each state an event is given, and the step answers the next state. -/
def IsRun (r : Nat → State) (ev : Nat → Event) : Prop := ∀ n, step ((r n).given (ev n)) = .next (r (n + 1))

/-- The scheduler has an enabled step (R260, R264, R270, R272, R276). -/
def State.schedulerEnabled (s : State) : Bool :=
  s.env.rstN &&
    if s.dma.active then !s.dma.loaded || s.dma.txfrLen == 0#32 || s.moveReady else s.completionReady

/-- The sequencer has an enabled step: its turn changes the state. The turns that change nothing are those with no
command running and those of a hold that is not over (R300, log entry 2). -/
def State.sequencerEnabled (s : State) : Prop := s.env.rstN = true ∧ sequencerTurn s ≠ .next s

/-- Weak fairness of the scheduler (R274, R418): no enabled step of it is postponed for ever. -/
def SchedulerFair (r : Nat → State) (ev : Nat → Event) : Prop :=
  ∀ n, (∀ m, n ≤ m → (r m).schedulerEnabled = true) → ∃ m, n ≤ m ∧ ev m = .scheduler

/-- Weak fairness of the sequencer (R418): no enabled step of it is postponed for ever. -/
def SequencerFair (r : Nat → State) (ev : Nat → Event) : Prop :=
  ∀ n, (∀ m, n ≤ m → (r m).sequencerEnabled) → ∃ m, n ≤ m ∧ ev m = .sequencer

/-- The serializer takes a tick eventually whenever its clock runs (R418). -/
def SerializerFair (r : Nat → State) (ev : Nat → Event) : Prop :=
  ∀ n, (∀ m, n ≤ m → (r m).env.rstN = true ∧ (r m).clockRuns = true) → ∃ m, n ≤ m ∧ ev m = .serializer

/-- The timer ticks without end (R418). -/
def TimerFair (ev : Nat → Event) : Prop := ∀ n, ∃ m, n ≤ m ∧ ev m = .timer

/-- The microseconds that pass between step `n` and step `k` of a run. -/
def microseconds (ev : Nat → Event) (n k : Nat) : Nat :=
  (List.range (k - n)).countP (fun i => decide (ev (n + i) = .timer))

/-- With `CLOCK_MAY_FAIL = false` the clock manager follows `ENAB` before `CLK_TIMEOUT_US` passes (R197, R418): while
`ENAB` stays as it is and `BUSY` still differs from it, fewer microseconds than that have passed. -/
def ClockManagerFollows (r : Nat → State) (ev : Nat → Event) : Prop :=
  ∀ n k, n ≤ k → (r n).cfg.clockMayFail = false →
    (∀ m, n ≤ m → m ≤ k → (r m).env.rstN = true ∧ (r m).clk.enab = (r n).clk.enab ∧
      (r m).env.busy ≠ (r m).clk.enab) →
    microseconds ev n k < (r n).cfg.clkTimeoutUs

/-- The runs of the time model (R418): the agents' steps in any order, subject to these. -/
structure FairRun (r : Nat → State) (ev : Nat → Event) : Prop where
  run          : IsRun r ev
  timer        : TimerFair ev
  scheduler    : SchedulerFair r ev
  sequencer    : SequencerFair r ev
  serializer   : SerializerFair r ev
  clockManager : ClockManagerFollows r ev

end Sys2Proof.Machine
end

