-- ==== Sys2Proof/Certificates/Slice0/Obligations.lean ====
section
/-! DEFINITION. The statements about the model, for the provers. Each docstring names the rules of `spec/` it
formalises. A statement that a step answers a given next state says with it everything the step leaves unchanged:
the next state is written as the old one with the fields that change. -/

open Sys2Proof Sys2Proof.Machine

/-! ## Encodings -/

/-- The six legal command words (R144), as bytes in the order of R109, decode to the commands; the first block of R253's
example decodes to its fields; and the builder's transfer information encodes as the `TI` words of R164. -/
def Obligations.DecodesSpecWords : Prop :=
  decode .command [0x01#8, 0x00#8, 0x00#8, 0x00#8] = .ok (.init, []) ∧
  decode .command [0x02#8, 0x00#8, 0x00#8, 0x00#8] = .ok (.fini, []) ∧
  decode .command [0x03#8, 0x00#8, 0x00#8, 0x00#8] = .ok (.render, []) ∧
  decode .command [0x04#8, 0x00#8, 0x00#8, 0x00#8] = .ok (.wait, []) ∧
  decode .command [0x05#8, 0x00#8, 0x00#8, 0x00#8] = .ok (.setGamma .ch0, []) ∧
  decode .command [0x05#8, 0x01#8, 0x00#8, 0x00#8] = .ok (.setGamma .ch1, []) ∧
  decodeBlock 0x00050140#32 0#32 0x00200000#32 0x48#32 0#32 0x00100020#32 0#32 0#32 =
    .ok (.cb { ti := { inten := false, destInc := false, destDreq := true, srcInc := true, permap := 5#5 },
               sourceAd := 0#32, destAd := 0x00200000#32, txfrLen := 0x48#32, stride := 0#32,
               nextConbk := 0x00100020#32, word6 := 0#32, word7 := 0#32 }) ∧
  tiWord (dataTi .pwm) = 0x00050140#32 ∧ tiWord (tailTi .pwm) = 0x00050141#32 ∧
  tiWord (dataTi .pcm) = 0x00020140#32 ∧ tiWord (tailTi .pcm) = 0x00020141#32 ∧
  tiWord (dataTi .spi) = 0x00060140#32 ∧ tiWord (tailTi .spi) = 0x00060141#32

/-- Decoding the bytes of any well-formed instruction gives it back, every operand at every value, and leaves the
bytes after it (R140 to R144, R160 to R162). -/
def Obligations.DecodeInvertsEncode : Prop :=
  ∀ (i : Instr) (rest : List Byte), i.wellFormed = true →
    decode i.space (encodeBytes i ++ rest) = .ok (i, rest)

/-- Encoding what the decoder read gives the bytes back: no bit of a word is dropped, and what the decoder reads
is well formed but for the checks that a fetch makes (R141, R160, R163). -/
def Obligations.EncodeInvertsDecode : Prop :=
  (∀ w : Word, encode (decodeCmd w) = [w] ∧ (decodeCmd w).wellFormed = true) ∧
  (∀ (w0 w1 w2 w3 w4 w5 w6 w7 : Word) (i : Instr), decodeBlock w0 w1 w2 w3 w4 w5 w6 w7 = .ok i →
    encode i = [w0, w1, w2, w3, w4, w5, w6, w7]) ∧
  (∀ w0 w1 w2 w3 w4 w5 w6 w7 : Word,
    (∃ i, decodeBlock w0 w1 w2 w3 w4 w5 w6 w7 = .ok i ∧ i.wellFormed = true) ↔
      (w0 &&& 0xFFE0FEAE#32 = 0#32 ∧
        (w0.field 16 5 = 0#5 ∨ w0.field 16 5 = 2#5 ∨ w0.field 16 5 = 5#5 ∨ w0.field 16 5 = 6#5) ∧
        w3.field 30 2 = 0#2 ∧ w4 = 0#32))

/-- A word with a reserved opcode, a reserved bit or a channel where none belongs is accepted like any command,
and the step after completes it with GenericFailure and changes nothing else, whatever its fields; a write to `CMD`
before that step is dropped (R340). -/
def Obligations.MalformedCommandFails : Prop :=
  (∀ (s : State) (op : Byte) (ch : Bool) (rsvd : BitVec 23), exec (.cmdMalformed op ch rsvd) s = .next { s with
    seq := { s.seq with result := .genericFailure, hold := .none, cmdBusy := false, phase := .start } }) ∧
  ∀ (s : State) (w : Word), s.seq.cmdBusy = false →
    ((w.field 0 8).toNat = 0 ∨ 5 < (w.field 0 8).toNat ∨ w.field 9 23 ≠ 0#23 ∨
      (w.getLsbD 8 = true ∧ (w.field 0 8).toNat ≠ 5)) →
    ∃ t u, s.hostAccess 0x008#20 4 (.write w) = .next t ∧
      t = { s with seq := { s.seq with cmd := w, cmdBusy := true, phase := .start }
                   env := { s.env with bus := .written } } ∧
      (∀ v, t.hostAccess 0x008#20 4 (.write v) = .next { t with seq := { t.seq with cmdLost := true } }) ∧
      exec (decodeCmd w) t = .next u ∧ sequencerTurn t = .next u ∧
      u = { t with seq := { s.seq with cmd := w, cmdBusy := false, phase := .start, hold := .none,
                                       result := .genericFailure } }

/-- Decoding and encoding a layout code are inverse, and `WPRESENT` is `S3 ≥ 16` (R146). -/
def Obligations.LayoutRoundTrip : Prop :=
  (∀ l : Word, layoutShifts l =
      { s0 := l.field 16 8, s1 := l.field 8 8, s2 := l.field 0 8, s3 := l.field 24 8 } ∧
    layoutOfShifts (layoutShifts l) = l ∧
    (layoutWhite l = true ↔ 16 ≤ (layoutShifts l).s3.toNat)) ∧
  (∀ h : Shifts, layoutShifts (layoutOfShifts h) = h)

/-- Which layout codes are supported, and how wide their wire group is (R147). -/
def Obligations.SupportedLayouts : Prop :=
  ∀ (l : Word) (h : Shifts), h = layoutShifts l →
    (layoutWhite l = true →
      (layoutSupported l = true ↔ [h.s0, h.s1, h.s2, h.s3].Perm [0#8, 8#8, 16#8, 24#8])) ∧
    (layoutWhite l = false →
      (layoutSupported l = true ↔
        [h.s0, h.s1, h.s2].Nodup ∧ ∀ x ∈ [h.s0, h.s1, h.s2], x ∈ [0#8, 8#8, 16#8, 24#8])) ∧
    (∀ (r : ChanRegs) (a : Bool), r.layout = l →
      (snapOf r a).bpp = if layoutWhite l then 32 else 24)

/-! ## The machine as a whole -/

/-- Every step keeps the canonical form of every RAM (log entry 23): equal memories stay equal lists. -/
def Obligations.StepKeepsCanonicalMemory : Prop :=
  ∀ s t : State, s.ram.wf → step s = .next t → t.ram.wf

/-- The machine right after reset meets the invariant, its RAMs are canonical, and gamma RAM reads as the
identity (R391; R235). -/
def Obligations.ResetMeetsInvariant : Prop :=
  State.reset.Inv ∧ State.reset.ram.wf ∧ ∀ (n : Chan) (x : Byte), (State.reset.ram.gamma.get n).entry x = x

/-- Every step keeps the invariant: `UNINIT` is the quiescent state with nothing held; the DMA runs only in
`SUBMITTED` and only inside the chain the builder wrote; the clock runs from INIT to FINI; the lanes are in step;
the FIFO never holds more than its depth (R48, R61, R201, R254, R282, R285, R361, R375). -/
def Obligations.StepKeepsInvariant : Prop :=
  ∀ s t : State, s.Inv → step s = .next t → t.Inv

/-- The sequencer's turn runs the decoded command word: where the next event is that turn, the step is `exec` of
what `CMD` decodes to, at the state without the event; with no command running the step does nothing else
(R300). -/
def Obligations.StepRunsCommand : Prop :=
  ∀ (s : State) (es : List Event), s.env.rstN = true → s.env.events = .sequencer :: es →
    (s.seq.cmdBusy = true →
      step s = exec (decodeCmd s.seq.cmd) { s with env := { s.env with events := es } }) ∧
    (s.seq.cmdBusy = false → step s = .next { s with env := { s.env with events := es } })

/-- The scheduler's turn runs the control block: where none is loaded and the eight words of CB RAM at a legal
`DMA_CONBLK_AD` decode to a block, the step is `exec` of it, at the state without the event and with the eight
free values a fetch may draw counted; where one is loaded, the step is `exec` of the block that the loaded-block
registers hold (R260, R264). -/
def Obligations.StepRunsControlBlock : Prop :=
  ∀ (s : State) (es : List Event), s.env.rstN = true → s.env.events = .scheduler :: es →
    s.dma.active = true →
    (∀ (j : Nat) (w0 w1 w2 w3 w4 w5 w6 w7 : Word) (i : Instr), s.dma.loaded = false →
      j < 8 → s.dma.conblkAd = BitVec.ofNat 32 (0x00100000 + 32 * j) →
      s.ram.cb.word? (8 * j) = some w0 → s.ram.cb.word? (8 * j + 1) = some w1 →
      s.ram.cb.word? (8 * j + 2) = some w2 → s.ram.cb.word? (8 * j + 3) = some w3 →
      s.ram.cb.word? (8 * j + 4) = some w4 → s.ram.cb.word? (8 * j + 5) = some w5 →
      s.ram.cb.word? (8 * j + 6) = some w6 → s.ram.cb.word? (8 * j + 7) = some w7 →
      decodeBlock w0 w1 w2 w3 w4 w5 w6 w7 = .ok i →
      step s = exec i { s with env := { s.env with events := es, draws := s.env.draws + 8 } }) ∧
    (s.dma.loaded = true →
      step s = exec (.cb { ti := tiFields s.dma.ti, sourceAd := s.dma.sourceAd, destAd := s.dma.destAd,
                           txfrLen := s.dma.txfrLen, stride := 0#32, nextConbk := s.dma.nextConbk,
                           word6 := 0#32, word7 := 0#32 })
        { s with env := { s.env with events := es } })

/-- Every instruction answers a next state in every state, and the only step that is refused is a host access the
port refuses: one that is not 32 bits wide or not at a multiple of 4 (a bus error, R102), or one made while
`rst_n` is 0 (R390). -/
def Obligations.OnlyBusAccessesRefused : Prop :=
  (∀ (i : Instr) (s : State), ∃ t, exec i s = .next t) ∧
  (∀ (s : State) (offset : BitVec 20) (bytes : Nat) (op : HostOp) (es : List Event),
    s.env.events = .host offset bytes op :: es → s.env.rstN = true →
    ((∃ t, step s = .next t) ↔ bytes = 4 ∧ offset.toNat % 4 = 0) ∧
    (¬(bytes = 4 ∧ offset.toNat % 4 = 0) → step s = .refused .busError)) ∧
  (∀ (s : State) (r : Refusal), step s = .refused r → s.hostEvent ∧
    (r = .busError ∧ s.env.rstN = true ∨ r = .inReset ∧ s.env.rstN = false))

/-- `STATE` takes only the steps of R342's table, each by the agent the table names; reset apart. -/
def Obligations.StateTransitions : Prop :=
  ∀ s t : State, s.Inv → s.env.rstN = true → step s = .next t → t.seq.state ≠ s.seq.state →
    (s.nextEvent.1 = .sequencer ∧ s.seq.cmdBusy = true ∧
      (decodeCmd s.seq.cmd = .init ∧ s.seq.state = .uninit ∧ t.seq.state = .idle ∧
          t.seq.result = .success ∧ t.seq.cmdBusy = false ∨
        decodeCmd s.seq.cmd = .render ∧ s.seq.state = .complete ∧ t.seq.state = .idle ∨
        decodeCmd s.seq.cmd = .render ∧ s.seq.state = .idle ∧ t.seq.state = .encoding ∨
        decodeCmd s.seq.cmd = .render ∧ s.seq.state = .encoding ∧ t.seq.state = .submitted ∨
        decodeCmd s.seq.cmd = .fini ∧ s.seq.state ≠ .encoding ∧ t.seq.state = .uninit)) ∨
    ((s.nextEvent.1 = .scheduler ∧ t.dma.error = s.dma.error ∨
        (s.nextEvent.1 = .scheduler ∨ s.nextEvent.1 = .serializer) ∧ t.dma.error = true) ∧
      s.seq.state = .submitted ∧ t.seq.state = .complete)

/-- With the chains the builder writes, the only DMA error a step can raise is an underrun, by the serializer,
while `ACTIVE` is 1 and `STATE` is `SUBMITTED` (R275, R361). -/
def Obligations.OnlyUnderrunOccurs : Prop :=
  ∀ s t : State, s.Inv → step s = .next t → s.dma.error = false → t.dma.error = true →
    t.dma.errCause = .underrun ∧ s.nextEvent.1 = .serializer ∧ s.dma.active = true ∧
      s.seq.state = .submitted ∧ s.cfg.transferErrors = .anytime

/-- The divider changes only in a step where `ENAB` is 0 and `BUSY` is 0 (reset apart), and a successful
programming leaves `DIVI` the divider INIT computed, `ENAB` 1 and `BUSY` 1 (R199). -/
def Obligations.DividerChangesStopped : Prop :=
  (∀ s t : State, s.Inv → s.env.rstN = true → step s = .next t → t.clk.divi ≠ s.clk.divi →
    s.clk.enab = false ∧ s.env.busy = false ∧ t.clk.enab = false ∧ t.env.busy = false) ∧
  (∀ (s t : State) (a : InitArgs) (t0 : BitVec 64), s.Inv → s.seq.phase = .initCommit a t0 →
    exec .init s = .next t → t.seq.state = .idle →
    t.clk.divi = a.divi ∧ t.clk.enab = true ∧ t.env.busy = true)

/-- Only INIT and FINI touch the clock: every other step (reset apart) leaves `CLK_CTL.ENAB` and `CLK_DIV` as
they are (R201). -/
def Obligations.OnlyInitAndFiniTouchClock : Prop :=
  ∀ s t : State, s.env.rstN = true → step s = .next t →
    ¬ (s.nextEvent.1 = .sequencer ∧ s.seq.cmdBusy = true ∧
      (decodeCmd s.seq.cmd = .init ∨ decodeCmd s.seq.cmd = .fini)) →
    t.clk = s.clk

/-- The snapshots are written only by INIT's commit and by RENDER's clear step, and no other step changes the
latched configuration but FINI's last one and the chain builder's (R61, R210; reset apart). -/
def Obligations.OnlySnapshotStepsWriteSnapshot : Prop :=
  ∀ s t : State, s.env.rstN = true → step s = .next t →
    (t.snap ≠ s.snap → s.nextEvent.1 = .sequencer ∧ s.seq.cmdBusy = true ∧
      ((∃ a t0, s.seq.phase = .initCommit a t0) ∧ decodeCmd s.seq.cmd = .init ∧ t.seq.state = .idle ∨
        s.seq.phase = .renderLatch ∧ decodeCmd s.seq.cmd = .render ∧ t.seq.state = .idle)) ∧
    (t.lat ≠ s.lat → s.nextEvent.1 = .sequencer ∧ s.seq.cmdBusy = true ∧
      ((∃ a t0, s.seq.phase = .initCommit a t0) ∧ decodeCmd s.seq.cmd = .init ∨
        (∃ t0, s.seq.phase = .finiRelease t0) ∧ decodeCmd s.seq.cmd = .fini ∨
        s.seq.phase = .renderBuild ∧ decodeCmd s.seq.cmd = .render))

/-- The timer counts microseconds modulo `2^64` and nothing else writes it (R60); the clock manager's bit becomes `ENAB`
at its step and never changes in any other way (R195); reset apart. -/
def Obligations.TimerAndClockManager : Prop :=
  State.reset.tim.timeUs = 0#64 ∧ State.reset.env.busy = false ∧
  (∀ s t : State, s.env.rstN = true → step s = .next t →
    (s.nextEvent.1 = .timer →
      t = { s with
        env := { s.env with events := t.env.events, draws := t.env.draws }
        tim := { s.tim with timeUs := s.tim.timeUs + 1#64 } }) ∧
    (s.nextEvent.1 ≠ .timer → t.tim.timeUs = s.tim.timeUs) ∧
    (s.nextEvent.1 = .clockManager →
      t = { s with env := { s.env with events := t.env.events, draws := t.env.draws, busy := s.clk.enab } }) ∧
    (s.nextEvent.1 ≠ .clockManager → t.env.busy = s.env.busy))

/-- `BUF_HAZARD` is set exactly by a host write to pixel RAM in `ENCODING` or `SUBMITTED` or to gamma RAM in
`ENCODING`, and cleared exactly by a `STATUS` write with bit 6 set; each such write is performed as usual (R402;
reset apart; a write to a window word beyond the RAM is ignored and sets nothing, log entry 19). -/
def Obligations.BufferHazardExactly : Prop :=
  ∀ s t : State, s.env.rstN = true → step s = .next t →
    (s.seq.bufHazard = false → (t.seq.bufHazard = true ↔
      ∃ off v, (s.nextEvent.1 = .host off 4 (.write v) ∨
          ∃ a, s.nextEvent.1 = .platform a 4 (.write v) ∧ platformOffset s.cfg a = some off) ∧
        ((∃ n i, hostTarget s.cfg off = .pixel n i) ∧
            (s.seq.state = .encoding ∨ s.seq.state = .submitted) ∨
          (∃ n i, hostTarget s.cfg off = .gamma n i) ∧ s.seq.state = .encoding))) ∧
    (s.seq.bufHazard = true → (t.seq.bufHazard = false ↔
      ∃ off v, (s.nextEvent.1 = .host off 4 (.write v) ∨
          ∃ a, s.nextEvent.1 = .platform a 4 (.write v) ∧ platformOffset s.cfg a = some off) ∧
        hostTarget s.cfg off = .reg .status ∧ v.getLsbD 6 = true))

/-- A 64-bit value read low word first is one value: the read of the low word copies the high word into its
shadow, and no step but another low-word read (and reset) changes the shadow, so the later read of the high word
returns it (R42, R43, R107). The shadow is the one side effect of these four reads: nothing else changes but the port's
answer (R108). -/
def Obligations.WideReadsAreConsistent : Prop :=
  (∀ s : State,
    s.hostAccess 0x020#20 4 .read = .next { s with
      tim := { s.tim with timeHiShadow := s.tim.timeUs.extractLsb' 32 32 }
      env := { s.env with bus := .data (s.tim.timeUs.extractLsb' 0 32) } } ∧
    s.hostAccess 0x028#20 4 .read = .next { s with
      tim := { s.tim with rwaitHiShadow := s.tim.renderWait.extractLsb' 32 32 }
      env := { s.env with bus := .data (s.tim.renderWait.extractLsb' 0 32) } } ∧
    s.hostAccess 0x024#20 4 .read = .next { s with env := { s.env with bus := .data s.tim.timeHiShadow } } ∧
    s.hostAccess 0x02C#20 4 .read = .next { s with env := { s.env with bus := .data s.tim.rwaitHiShadow } }) ∧
  (∀ s t : State, s.env.rstN = true → step s = .next t →
    (t.tim.timeHiShadow ≠ s.tim.timeHiShadow → s.nextEvent.1 = .host 0x020#20 4 .read ∨
      ∃ a, s.nextEvent.1 = .platform a 4 .read ∧ platformOffset s.cfg a = some 0x020#20) ∧
    (t.tim.rwaitHiShadow ≠ s.tim.rwaitHiShadow → s.nextEvent.1 = .host 0x028#20 4 .read ∨
      ∃ a, s.nextEvent.1 = .platform a 4 .read ∧ platformOffset s.cfg a = some 0x028#20))

/-! ## Reset and the host port -/

/-- What a rising `rst_n` leaves: the reset values (R391), RAM without a value but for gamma RAM (R392), and, the model's
choice, the parameters and the `profile_id` input as they were (log entries 5, 6, 18). A falling `rst_n` changes nothing
else, and while it is 0 the state is kept (log entry 18), no agent steps and the port refuses accesses (R390). -/
def Obligations.ResetGivesResetValues : Prop :=
  (∀ (s : State) (es : List Event), s.env.events = .resetHigh :: es → s.env.rstN = false →
    ∃ t, step s = .next t ∧ t.cfg = s.cfg ∧ t.env.profileId = s.env.profileId ∧ t.env.rstN = true ∧
      t.env.busy = false ∧
      -- the sequencer: STATUS, RESULT, CMD
      t.seq = { state := .uninit, hold := .none, cmdBusy := false, xferErr := false, cmdLost := false,
                bufHazard := false, chainValid := false, cmd := 0#32, result := .success, phase := .start } ∧
      -- FREQ, DMANUM, GAMMA_FACTOR and the channel registers
      t.regs.freq = 800000#32 ∧ t.regs.dmanum = 10#4 ∧ t.regs.gammaFactor = 0x00010000#32 ∧
      (∀ n, t.regs.chan.get n = { gpio := 0#8, invert := false, count := 0#16, layout := 0x00081000#32,
                                  brightness := 255#8 }) ∧
      -- the timer and the shadows
      t.tim = { timeUs := 0#64, timeHiShadow := 0#32, renderWait := 0#64, rwaitHiShadow := 0#32 } ∧
      -- CLK_CTL, CLK_DIV
      t.clk = { enab := false, divi := 0#12 } ∧
      -- the scheduler
      t.dma = { active := false, ended := false, int := false, error := false, errCause := .none,
                conblkAd := 0#32, ti := 0#32, sourceAd := 0#32, destAd := 0#32, txfrLen := 0#32,
                nextConbk := 0#32, loaded := false } ∧
      -- the serializer
      t.ser.enabled = false ∧ t.ser.fifo = [] ∧
      (∀ l, t.ser.lane.get l = { shreg := 0#32, left := 0, out := false, oe := false }) ∧
      -- the snapshots and the latched configuration
      (∀ n, t.snap.get n = { count := 0#16, layout := 0#32, white := false, brightness := 0#8,
                             invert := false }) ∧
      t.lat = { mode := .pwm, active := { ch0 := false, ch1 := false }, prof := none, coreHz := 0#32,
                freqL := 0#32, lanes := 0, built := none,
                geometry := { d := 0#16, t := 0#14, lanes := 0#2 } } ∧
      -- gamma RAM is the identity; no other RAM has a value
      (∀ n x, (t.ram.gamma.get n).entry x = x) ∧
      (∀ k, t.ram.sym.word? k = none ∧ t.ram.cb.word? k = none ∧
        t.ram.pixel.ch0.word? k = none ∧ t.ram.pixel.ch1.word? k = none)) ∧
  (∀ (s : State) (es : List Event), s.env.events = .resetLow :: es → s.env.rstN = true →
    step s = .next { s with env := { s.env with events := es, rstN := false } }) ∧
  (∀ (s : State) (e : Event) (es : List Event), s.env.events = e :: es → s.env.rstN = false →
    ((e = .sequencer ∨ e = .scheduler ∨ e = .serializer ∨ e = .clockManager ∨ e = .timer) →
      step s = .next { s with env := { s.env with events := es } }) ∧
    (∀ offset bytes op, e = .host offset bytes op → step s = .refused .inReset))

/-- `STATUS` reads its fields at their positions and 0 elsewhere, and a write clears `CMD_LOST` and `BUF_HAZARD`
where the written bit is 1 and affects nothing else (R32, R33, R34). -/
def Obligations.StatusRegister : Prop :=
  ∀ s : State,
    (∃ v, s.hostAccess 0x000#20 4 .read = .next { s with env := { s.env with bus := .data v } } ∧
      v.field 0 3 = (match s.seq.state with
        | .uninit => 0#3 | .idle => 1#3 | .encoding => 2#3 | .submitted => 3#3 | .complete => 4#3) ∧
      v.getLsbD 3 = s.seq.cmdBusy ∧ v.getLsbD 4 = s.seq.xferErr ∧ v.getLsbD 5 = s.seq.cmdLost ∧
      v.getLsbD 6 = s.seq.bufHazard ∧ v.getLsbD 7 = false ∧
      v.field 8 3 = (match s.seq.hold with
        | .none => 0#3 | .prior => 1#3 | .latch => 2#3 | .clock => 3#3 | .waitCmd => 4#3 | .work => 5#3) ∧
      v.field 11 5 = 0#5 ∧
      v.field 16 2 = (match s.lat.mode with | .pwm => 0#2 | .pcm => 1#2 | .spi => 2#2) ∧
      v.getLsbD 18 = s.lat.active.ch0 ∧ v.getLsbD 19 = s.lat.active.ch1 ∧
      v.getLsbD 20 = s.seq.chainValid ∧ v.field 21 11 = 0#11) ∧
    (∀ v, s.hostAccess 0x000#20 4 (.write v) = .next { s with
      seq := { s.seq with
        cmdLost := s.seq.cmdLost && !v.getLsbD 5
        bufHazard := s.seq.bufHazard && !v.getLsbD 6 }
      env := { s.env with bus := .written } })

/-- Every register the host can only read, but the four time registers, which `Obligations.WideReadsAreConsistent`
has. The packed ones read their fields at their positions (R44, R45, R46, R48, R50, R58), with DREQ as R269 says it;
`RESULT` reads the code's value in two's complement (R35, R170); and `PROFILE`, `CORE_HZ`, the scheduler's registers
and `SHIFTS` read their values (R40, R41, R47, R49, R57). A read changes nothing but the port's answer. -/
def Obligations.PackedRegisters : Prop :=
  ∀ s : State,
    let read (o : Nat) (w : Word) : Prop :=
      s.hostAccess (BitVec.ofNat 20 o) 4 .read = .next { s with env := { s.env with bus := .data w } }
    let permap := s.dma.ti.field 16 5
    let used : BitVec 5 := match s.lat.mode with | .pwm => 5#5 | .pcm => 2#5 | .spi => 6#5
    (∃ v, s.hostAccess 0x030#20 4 .read = .next { s with env := { s.env with bus := .data v } } ∧
      v.getLsbD 4 = s.clk.enab ∧ v.getLsbD 7 = s.env.busy ∧
      v.field 0 4 = 0#4 ∧ v.field 5 2 = 0#2 ∧ v.field 8 24 = 0#24) ∧
    (∃ v, s.hostAccess 0x034#20 4 .read = .next { s with env := { s.env with bus := .data v } } ∧
      v.field 12 12 = s.clk.divi ∧ v.field 0 12 = 0#12 ∧ v.field 24 8 = 0#8) ∧
    (∃ v, s.hostAccess 0x038#20 4 .read = .next { s with env := { s.env with bus := .data v } } ∧
      v.getLsbD 0 = s.dma.active ∧ v.getLsbD 1 = s.dma.ended ∧ v.getLsbD 2 = s.dma.int ∧
      (v.getLsbD 3 = true ↔ s.dma.loaded = true ∧
        (permap = 0#5 ∨ permap = used ∧ s.ser.fifo.length < s.cfg.fifoDepth)) ∧
      v.field 4 4 = 0#4 ∧ v.getLsbD 8 = s.dma.error ∧ v.field 9 7 = 0#7 ∧
      v.field 16 4 = (match s.dma.errCause with
        | .none => 0#4 | .cbAddr => 1#4 | .cbFormat => 2#4 | .lenAlign => 3#4 | .srcBus => 4#4
        | .destBus => 5#4 | .fifoOverflow => 6#4 | .underrun => 7#4) ∧
      v.field 20 12 = 0#12) ∧
    (s.Inv → ∃ v, s.hostAccess 0x054#20 4 .read = .next { s with env := { s.env with bus := .data v } } ∧
      v.toNat = s.ser.fifo.length) ∧
    (∃ v, s.hostAccess 0x058#20 4 .read = .next { s with env := { s.env with bus := .data v } } ∧
      v.field 0 16 = s.lat.geometry.d ∧ v.field 16 14 = s.lat.geometry.t ∧
      v.field 30 2 = s.lat.geometry.lanes) ∧
    (∃ v, s.hostAccess 0x004#20 4 .read = .next { s with env := { s.env with bus := .data v } } ∧
      v.toInt = (match s.seq.result with
        | .success => 0 | .genericFailure => -1 | .outOfMemory => -2 | .hardwareNotSupported => -3
        | .memLock => -4 | .mmap => -5 | .mapRegisters => -6 | .gpioInit => -7 | .pwmSetup => -8
        | .mailboxDevice => -9 | .dma => -10 | .illegalGpio => -11 | .pcmSetup => -12 | .spiSetup => -13
        | .spiTransfer => -14)) ∧
    (∀ n, ∃ v, s.hostAccess (BitVec.ofNat 20 (0x098 + 0x20 * n.toNat)) 4 .read =
        .next { s with env := { s.env with bus := .data v } } ∧
      v.field 0 16 = (s.snap.get n).count ∧ v.getLsbD 16 = (s.snap.get n).white ∧
      v.getLsbD 17 = (s.snap.get n).invert ∧ v.field 18 6 = 0#6 ∧ v.field 24 8 = (s.snap.get n).brightness) ∧
    read 0x018 s.env.profileId ∧ read 0x01C s.lat.coreHz ∧ read 0x03C s.dma.conblkAd ∧ read 0x040 s.dma.ti ∧
    read 0x044 s.dma.sourceAd ∧ read 0x048 s.dma.destAd ∧ read 0x04C s.dma.txfrLen ∧ read 0x050 s.dma.nextConbk ∧
    ∀ n, read (0x094 + 0x20 * n.toNat) (s.snap.get n).layout

/-- The registers the host writes keep the bits the rules name, read them back with the others 0, and a write to
one changes nothing else: no snapshot, no latched configuration, no flag (R37, R38, R39, R52 to R56, R403). -/
def Obligations.HostRegistersReadBack : Prop :=
  ∀ (s : State) (v : Word) (n : Chan),
    let write (o : Nat) (g : Regs) : Prop :=
      s.hostAccess (BitVec.ofNat 20 o) 4 (.write v) =
        .next { s with regs := g, env := { s.env with bus := .written } }
    let read (o : Nat) (w : Word) : Prop :=
      s.hostAccess (BitVec.ofNat 20 o) 4 .read = .next { s with env := { s.env with bus := .data w } }
    let base := 0x080 + 0x20 * n.toNat
    let c := s.regs.chan.get n
    write 0x00C { s.regs with freq := v } ∧ read 0x00C s.regs.freq ∧
    write 0x010 { s.regs with dmanum := v.field 0 4 } ∧ read 0x010 (0#28 ++ s.regs.dmanum) ∧
    write 0x014 { s.regs with gammaFactor := v } ∧ read 0x014 s.regs.gammaFactor ∧
    write base { s.regs with chan := s.regs.chan.set n { c with gpio := v.field 0 8 } } ∧
    read base (0#24 ++ c.gpio) ∧
    write (base + 0x04) { s.regs with chan := s.regs.chan.set n { c with invert := v.getLsbD 0 } } ∧
    read (base + 0x04) (0#31 ++ BitVec.ofBool c.invert) ∧
    write (base + 0x08) { s.regs with chan := s.regs.chan.set n { c with count := v.field 0 16 } } ∧
    read (base + 0x08) (0#16 ++ c.count) ∧
    write (base + 0x0C) { s.regs with chan := s.regs.chan.set n { c with layout := v } } ∧
    read (base + 0x0C) c.layout ∧
    write (base + 0x10) { s.regs with chan := s.regs.chan.set n { c with brightness := v.field 0 8 } } ∧
    read (base + 0x10) (0#24 ++ c.brightness)

/-- A reserved offset, and a window word beyond its RAM, reads 0 and ignores writes; a read-only register or window
ignores writes (R104). That an ignored write to a pixel window word at or beyond `MAX_LEDS` sets no `BUF_HAZARD` either,
whatever `STATE` is, is the model's choice (log entry 19). -/
def Obligations.ReservedAndReadOnlyOffsets : Prop :=
  ∀ (s : State) (offset : BitVec 20) (v : Word) (o : Nat), o = offset.toNat → o % 4 = 0 →
    ((0x05C ≤ o ∧ o ≤ 0x07C ∨ o = 0x09C ∨ o = 0x0BC ∨ 0x0C0 ≤ o ∧ o ≤ 0x0FC ∨ 0x200 ≤ o ∧ o ≤ 0x3FC ∨
        0xC00 ≤ o ∧ o ≤ 0xFFFC ∨ 0x30000 ≤ o ∧ o ≤ 0x3FFFC ∨ 0x80000 ≤ o ∧ o ≤ 0xFFFFC ∨
        0x10000 ≤ o ∧ o ≤ 0x1FFFC ∧ s.cfg.maxLeds ≤ (o - 0x10000) / 4 ∨
        0x20000 ≤ o ∧ o ≤ 0x2FFFC ∧ s.cfg.maxLeds ≤ (o - 0x20000) / 4 ∨
        0x40000 ≤ o ∧ o ≤ 0x7FFFC ∧ s.cfg.symWords ≤ (o - 0x40000) / 4) →
      s.hostAccess offset 4 .read = .next { s with env := { s.env with bus := .data 0#32 } } ∧
      s.hostAccess offset 4 (.write v) = .next { s with env := { s.env with bus := .written } }) ∧
    ((o = 0x004 ∨ 0x018 ≤ o ∧ o ≤ 0x058 ∨ o = 0x094 ∨ o = 0x098 ∨ o = 0x0B4 ∨ o = 0x0B8 ∨
        0x100 ≤ o ∧ o ≤ 0x1FC ∨ 0x40000 ≤ o ∧ o ≤ 0x7FFFC) →
      s.hostAccess offset 4 (.write v) = .next { s with env := { s.env with bus := .written } })

/-- The gamma and pixel windows: what a read returns, what a write stores, and that it changes no other byte of any
RAM and no register but `BUF_HAZARD` (R103, R105, R402). A read of a pixel word that has no value returns some word
(R106), and a pixel read changes nothing but the count of drawn values, the model's own field (log entry 7). -/
def Obligations.GammaAndPixelWindows : Prop :=
  ∀ (s : State) (n : Chan) (v : Word),
    (∀ x : Byte,
      s.hostAccess (BitVec.ofNat 20 (0x400 + 0x400 * n.toNat + 4 * x.toNat)) 4 .read =
        .next { s with env := { s.env with bus := .data (0#24 ++ (s.ram.gamma.get n).entry x) } } ∧
      ∃ t, s.hostAccess (BitVec.ofNat 20 (0x400 + 0x400 * n.toNat + 4 * x.toNat)) 4 (.write v) = .next t ∧
        t = { s with
          ram := t.ram
          seq := { s.seq with bufHazard := s.seq.bufHazard || decide (s.seq.state = .encoding) }
          env := { s.env with bus := .written } } ∧
        (t.ram.gamma.get n).entry x = v.field 0 8 ∧
        SameBytesBut s t (fun r a => r = .gamma n ∧ a = x.toNat)) ∧
    (∀ i : Nat, i < s.cfg.maxLeds → i < 0x4000 →
      (∃ w, s.hostAccess (BitVec.ofNat 20 (0x10000 + 0x10000 * n.toNat + 4 * i)) 4 .read =
          .next { s with env := { s.env with bus := .data w, draws := s.env.draws + 1 } } ∧
        ∀ u, (s.ram.pixel.get n).word? i = some u → w = u) ∧
      ∃ t, s.hostAccess (BitVec.ofNat 20 (0x10000 + 0x10000 * n.toNat + 4 * i)) 4 (.write v) = .next t ∧
        t = { s with
          ram := t.ram
          seq := { s.seq with bufHazard :=
            s.seq.bufHazard || decide (s.seq.state = .encoding ∨ s.seq.state = .submitted) }
          env := { s.env with bus := .written } } ∧
        (t.ram.pixel.get n).word? i = some v ∧
        SameBytesBut s t (fun r a => r = .pixel n ∧ 4 * i ≤ a ∧ a < 4 * i + 4))

/-- The symbol and CB windows read the stored words; a word that has no value reads as some word, and the state
keeps none for it (R103, R106). -/
def Obligations.SymbolAndBlockWindows : Prop :=
  ∀ s : State,
    (∀ k, k < s.cfg.symWords → k < 0x10000 → ∃ w,
      s.hostAccess (BitVec.ofNat 20 (0x40000 + 4 * k)) 4 .read =
        .next { s with env := { s.env with bus := .data w, draws := s.env.draws + 1 } } ∧
      ∀ u, s.ram.sym.word? k = some u → w = u) ∧
    (∀ j, j < 64 → ∃ w,
      s.hostAccess (BitVec.ofNat 20 (0x100 + 4 * j)) 4 .read =
        .next { s with env := { s.env with bus := .data w, draws := s.env.draws + 1 } } ∧
      ∀ u, s.ram.cb.word? j = some u → w = u)

/-- A write to `CMD` while no command runs is accepted; while one runs it is dropped, `CMD`, `RESULT` and the running
command unchanged, and `CMD_LOST` set (R300, R301). -/
def Obligations.CommandsAcceptedOrDropped : Prop :=
  ∀ (s : State) (v : Word),
    (s.seq.cmdBusy = false → s.hostAccess 0x008#20 4 (.write v) = .next { s with
      seq := { s.seq with cmd := v, cmdBusy := true, phase := .start }
      env := { s.env with bus := .written } }) ∧
    (s.seq.cmdBusy = true → s.hostAccess 0x008#20 4 (.write v) = .next { s with
      seq := { s.seq with cmdLost := true }
      env := { s.env with bus := .written } }) ∧
    s.hostAccess 0x008#20 4 .read = .next { s with env := { s.env with bus := .data s.seq.cmd } }

/-- Host offset `o` is platform address `BASE + o` (R101). -/
def Obligations.PlatformWindow : Prop :=
  ∀ (s : State) (offset : BitVec 20) (bytes : Nat) (op : HostOp),
    s.platformAccess (s.cfg.base + offset.toNat) bytes op = s.hostAccess offset bytes op

/-! ## INIT -/

/-- INIT's checks, in their order, each with its code; a failing one changes nothing else, and where none fails the
values that the later steps use are those the registers hold at this step (R310 steps 1 to 11, with R304, R305, R307,
R211, R219; R314). -/
def Obligations.InitChecksInOrder : Prop :=
  ∀ s : State, s.seq.phase = .start →
    let fails (c : RetCode) : Prop := exec .init s = .next { s with
      seq := { s.seq with result := c, hold := .none, cmdBusy := false, phase := .start } }
    let reg (n : Chan) : ChanRegs := s.regs.chan.get n
    let act (n : Chan) : Prop := 0 < (reg n).count.toNat
    let pin (n : Chan) (f : PinFn) : Prop := (reg n).gpio ≠ 0#8 ∧ ((reg n).gpio, f) ∈ s.cfg.pinFunctions
    let f : Nat := s.regs.freq.toNat
    -- 1
    (s.seq.state ≠ .uninit → fails .genericFailure) ∧
    -- 2
    (s.seq.state = .uninit → s.cfg.profiles.find? (fun p => p.id == s.env.profileId) = none →
      fails .hardwareNotSupported) ∧
    (s.seq.state = .uninit →
      ∀ (prof : Profile) (mode : Mode), s.cfg.profiles.find? (fun p => p.id == s.env.profileId) = some prof →
      (act .ch0 → pin .ch0 .pcmDout → mode = .pcm) →
      (act .ch0 → ¬ pin .ch0 .pcmDout → pin .ch0 .spiMosi → mode = .spi) →
      (¬ act .ch0 ∨ ¬ pin .ch0 .pcmDout ∧ ¬ pin .ch0 .spiMosi → mode = .pwm) →
      let setupErr : RetCode := match mode with | .pwm => .pwmSetup | .pcm => .pcmSetup | .spi => .spiSetup
      let words (n : Chan) : Nat :=
        (31 + 3 * ((reg n).count.toNat * (if (reg n).layout.field 28 4 ≠ 0#4 then 32 else 24))) / 32
      let d : Nat := if mode = .pwm then max (words .ch0) (words .ch1) else words .ch0
      let t : Nat := (31999999 + 165 * f) / 32000000
      let l : Nat := if mode = .pwm then 2 else 1
      let div : Nat := computeDivider prof.coreHz.toNat f
      let check3 : Prop := ∃ n, act n ∧ (reg n).gpio = 0#8
      let check4 : Prop := ∃ n, act n ∧ layoutSupported (reg n).layout = false
      let check5 : Prop := mode ≠ .pwm ∧ act .ch1
      let check6 : Prop := ¬ match mode with
        | .pwm => (act .ch0 → pin .ch0 .pwm0) ∧ (act .ch1 → pin .ch1 .pwm1) ∧
            (act .ch0 → act .ch1 → (reg .ch0).gpio ≠ (reg .ch1).gpio)
        | .pcm => pin .ch0 .pcmDout
        | .spi => pin .ch0 .spiMosi
      let check7 : Prop := f < 400000
      let check8 : Prop := prof.dmaMask.getLsbD s.regs.dmanum.toNat = false
      let check9 : Prop := ∃ n, act n ∧ s.cfg.maxLeds < (reg n).count.toNat
      let check10 : Prop := s.cfg.symWords < (d + t) * l
      let check11 : Prop := div < 2 ∨ 4095 < div
      (check3 → fails .illegalGpio) ∧ (¬ check3 →
      (check4 → fails .genericFailure) ∧ (¬ check4 →
      (check5 → fails setupErr) ∧ (¬ check5 →
      (check6 → fails .illegalGpio) ∧ (¬ check6 →
      (check7 → fails setupErr) ∧ (¬ check7 →
      (check8 → fails .dma) ∧ (¬ check8 →
      (check9 → fails .outOfMemory) ∧ (¬ check9 →
      (check10 → fails .dma) ∧ (¬ check10 →
      (check11 → fails setupErr) ∧ (¬ check11 →
      ∃ a : InitArgs, exec .init s = .next { s with seq := { s.seq with phase := .initDisable a, hold := .none } } ∧
        a.mode = mode ∧ a.prof = prof ∧ a.freq = s.regs.freq ∧ a.divi.toNat = div ∧
        ∀ n, (a.active.get n = true ↔ act n) ∧
          (a.snap.get n).count = (reg n).count ∧ (a.snap.get n).layout = (reg n).layout ∧
          (a.snap.get n).white = ((reg n).layout.field 28 4 != 0#4) ∧
          (a.snap.get n).brightness = (reg n).brightness ∧
          (act n → (a.snap.get n).invert = (reg n).invert) ∧
          (¬ act n → (a.snap.get n).invert = false)))))))))))

/-- `ClockProgram`, step by step: disable, hold until the clock has stopped, program, enable, hold until it runs; each
hold ends at `CLK_TIMEOUT_US`, and what then fails completes with the mode's setup error (R198, R191). With
`CLOCK_MAY_FAIL = false` there are no timeouts, which R197 allows (log entry 10); elapsed time is on integers (log
entry 11). -/
def Obligations.InitProgramsClock : Prop :=
  ∀ (s : State) (a : InitArgs) (t0 : BitVec 64),
    let late : Prop := s.cfg.clockMayFail = true ∧ t0.toNat + s.cfg.clkTimeoutUs ≤ s.tim.timeUs.toNat
    let lateAtOnce : Prop := s.cfg.clockMayFail = true ∧ s.cfg.clkTimeoutUs = 0
    let setupErr : RetCode := match a.mode with | .pwm => .pwmSetup | .pcm => .pcmSetup | .spi => .spiSetup
    -- step A
    (s.seq.phase = .initDisable a → ∃ h, (h = .clock ∨ h = .none) ∧
      (h = .clock ↔ s.env.busy = true ∧ ¬ lateAtOnce) ∧
      exec .init s = .next { s with
        clk := { s.clk with enab := false }
        seq := { s.seq with phase := .initProgram a s.tim.timeUs, hold := h } }) ∧
    -- the first hold, its failure, and step B
    (s.seq.phase = .initProgram a t0 →
      (s.env.busy = true → ¬ late → exec .init s = .next s) ∧
      (s.env.busy = true → late → exec .init s = .next { s with
        seq := { s.seq with result := setupErr, hold := .none, cmdBusy := false, phase := .start } }) ∧
      (s.env.busy = false → exec .init s = .next { s with
        clk := { s.clk with divi := a.divi }
        seq := { s.seq with phase := .initEnable a, hold := .none } })) ∧
    -- step C
    (s.seq.phase = .initEnable a → ∃ h, (h = .clock ∨ h = .none) ∧
      (h = .clock ↔ s.env.busy = false ∧ ¬ lateAtOnce) ∧
      exec .init s = .next { s with
        clk := { s.clk with enab := true }
        seq := { s.seq with phase := .initCommit a s.tim.timeUs, hold := h } }) ∧
    -- the second hold, its failure, and success
    (s.seq.phase = .initCommit a t0 →
      (s.env.busy = false → ¬ late → exec .init s = .next s) ∧
      (s.env.busy = false → late → exec .init s = .next { s with
        clk := { s.clk with enab := false }
        seq := { s.seq with result := setupErr, hold := .none, cmdBusy := false, phase := .start } }) ∧
      (s.env.busy = true → ∃ t, exec .init s = .next t ∧ t.clk = s.clk ∧ t.seq.result = .success ∧
        t.seq.cmdBusy = false ∧ t.seq.state = .idle))

/-- No step of INIT but its commit changes anything but `RESULT`, `CMD_BUSY`, `HOLD`, how far the command has come, and
the clock's two fields; a failure before the clock's steps leaves the clock too, a later one leaves `ENAB = 0`
(R311). -/
def Obligations.InitFailureChangesNothing : Prop :=
  ∀ s t : State, s.Inv → s.seq.cmdBusy = true → decodeCmd s.seq.cmd = .init → exec .init s = .next t →
    ¬ (t.seq.cmdBusy = false ∧ t.seq.result = .success) →
    t = { s with
      clk := t.clk
      seq := { s.seq with
        result := t.seq.result, hold := t.seq.hold, cmdBusy := t.seq.cmdBusy, phase := t.seq.phase } } ∧
    (t.seq.cmdBusy = true → t.seq.result = s.seq.result) ∧
    (t.seq.cmdBusy = false → s.seq.phase = .start → t.clk = s.clk) ∧
    (t.seq.cmdBusy = false → s.seq.phase ≠ .start → t.clk.enab = false ∧ t.clk.divi = s.clk.divi ∧
      s.seq.state = .uninit) ∧
    (t.clk.divi ≠ s.clk.divi → ∃ a t0, s.seq.phase = .initProgram a t0 ∧ t.clk.divi = a.divi)

/-- INIT's commit: everything it writes, and that it writes nothing else (R312; the outputs by R285; the chain's words
are `Obligations.BuildPhase`'s). -/
def Obligations.InitCommits : Prop :=
  ∀ (s : State) (a : InitArgs) (t0 : BitVec 64), s.seq.phase = .initCommit a t0 → s.env.busy = true →
    let g := geometry a.mode a.freq a.snap
    let oe (n : Chan) : Bool := match a.mode, n with
      | .pwm, n => a.active.get n
      | .pcm, .ch0 => a.active.ch0
      | .spi, .ch0 => a.active.ch0
      | .pcm, .ch1 => false
      | .spi, .ch1 => false
    let lane (n : Chan) : Lane := { s.ser.lane.get n with oe := oe n, out := oe n && (a.snap.get n).invert }
    ∃ t, exec .init s = .next t ∧
      t = { s with
        lat := { mode := a.mode, active := a.active, prof := some a.prof, coreHz := a.prof.coreHz, freqL := a.freq
                 lanes := match a.mode with | .pwm => 2 | .pcm => 1 | .spi => 1
                 built := some { ch0 := { count := a.snap.ch0.count, layout := a.snap.ch0.layout }
                                 ch1 := { count := a.snap.ch1.count, layout := a.snap.ch1.layout } }
                 geometry := { d := BitVec.ofNat 16 g.d, t := BitVec.ofNat 14 g.t, lanes := BitVec.ofNat 2 g.l } }
        snap := a.snap
        tim := { s.tim with renderWait := 0#64 }
        dma := { s.dma with ended := false, int := false, error := false, errCause := .none }
        ser := { s.ser with enabled := true, lane := { ch0 := lane .ch0, ch1 := lane .ch1 } }
        seq := { s.seq with state := .idle, xferErr := false, chainValid := true, result := .success
                            hold := .none, cmdBusy := false, phase := .start }
        ram := t.ram } ∧
      (∀ n i, i < s.cfg.maxLeds → (t.ram.pixel.get n).word? i = some 0#32) ∧
      (∀ k w, (chainWords a.mode g)[k]? = some w → t.ram.cb.word? k = some w) ∧
      SameBytesBut s t (fun r x => (∃ n, r = .pixel n ∧ x < 4 * s.cfg.maxLeds) ∨ r = .cb ∧ x < 64)

/-- INIT runs to success: from a state of the invariant whose checks pass, with the clock stopped, the sequencer's
turns with one turn of the clock manager after the enable end with `Success`, in `IDLE`, the clock running at the
divider INIT computed and the outputs enabled (R310, R198, R312). And in every fair run without reset, with
`CLOCK_MAY_FAIL = false` (R197), a running INIT completes, with `Success` once its checks have passed (R302, R418;
fairness is a premise about the run, log entry 16). -/
def Obligations.InitSucceeds : Prop :=
  (∀ (s : State) (a : InitArgs) (es : List Event), s.Inv → s.env.rstN = true → s.seq.cmdBusy = true →
    s.seq.cmd = 0x00000001#32 → s.seq.phase = .start → s.initChecks = .ok a → s.env.busy = false →
    s.env.events = [.sequencer, .sequencer, .sequencer, .sequencer, .clockManager, .sequencer] ++ es →
    ∃ t : State, Sys2Proof.core.run 6 s = .next t ∧ t.Inv ∧ t.env.events = es ∧
      t.seq.state = .idle ∧ t.seq.result = .success ∧ t.seq.cmdBusy = false ∧ t.seq.hold = .none ∧
      t.seq.chainValid = true ∧ t.lat.mode = a.mode ∧ t.lat.active = a.active ∧ t.snap = a.snap ∧
      t.clk = { enab := true, divi := a.divi } ∧ t.env.busy = true ∧ t.ser.enabled = true ∧
      t.regs = s.regs ∧ t.ram.gamma = s.ram.gamma ∧ t.ram.sym = s.ram.sym ∧
      ∀ n i, i < s.cfg.maxLeds → (t.ram.pixel.get n).word? i = some 0#32) ∧
  (∀ (r : Nat → State) (ev : Nat → Event) (n : Nat), FairRun r ev → (r n).Inv → (r n).cfg.clockMayFail = false →
    (r n).seq.cmdBusy = true → decodeCmd (r n).seq.cmd = .init → (∀ m, n ≤ m → (r m).env.rstN = true) →
    ∃ m, n ≤ m ∧ (r m).seq.cmdBusy = false ∧
      ((r n).seq.phase ≠ .start → (r m).seq.result = .success ∧ (r m).seq.state = .idle ∧
        (r m).clk.enab = true ∧ (r m).env.busy = true ∧ (r m).ser.enabled = true) ∧
      ∀ k, n ≤ k → k < m → (r k).seq.cmdBusy = true)

/-- With no active channel INIT needs no pins and succeeds, and FINI after it leaves nothing held (R313): the run is
INIT's steps, the host's write of FINI to `CMD`, and FINI's steps, the clock manager answering each time. The tail must
fit symbol RAM and the divider be in range, which R313 leaves unsaid. That FINI writes `RESULT` is log entry 27. -/
def Obligations.NoChannelsInitThenFini : Prop :=
  ∀ (s : State) (prof : Profile) (es : List Event), s.Inv → s.env.rstN = true → s.seq.cmdBusy = true →
    s.seq.cmd = 0x00000001#32 → s.seq.phase = .start → s.seq.state = .uninit → s.env.busy = false →
    s.regs.chan.ch0.count = 0#16 → s.regs.chan.ch1.count = 0#16 →
    s.cfg.profiles.find? (fun p => p.id == s.env.profileId) = some prof →
    400000 ≤ s.regs.freq.toNat → prof.dmaMask.getLsbD s.regs.dmanum.toNat = true →
    2 * tailWords s.regs.freq.toNat ≤ s.cfg.symWords →
    2 ≤ computeDivider prof.coreHz.toNat s.regs.freq.toNat →
    computeDivider prof.coreHz.toNat s.regs.freq.toNat ≤ 4095 →
    s.env.events = [.sequencer, .sequencer, .sequencer, .sequencer, .clockManager, .sequencer] ++
      [.host 0x008#20 4 (.write 0x00000002#32), .sequencer, .sequencer, .clockManager, .sequencer] ++ es →
    ∃ t u : State, Sys2Proof.core.run 6 s = .next t ∧ t.seq.result = .success ∧ t.seq.state = .idle ∧
      t.lat.mode = .pwm ∧ t.lat.active = { ch0 := false, ch1 := false } ∧
      Sys2Proof.core.run 5 t = .next u ∧ u.seq.result = .success ∧ u.seq.state = .uninit ∧
      u.seq.cmdBusy = false ∧ u.clk.enab = false ∧ u.dma.active = false ∧
      u.ser.lane.ch0.oe = false ∧ u.ser.lane.ch1.oe = false ∧ u.lat.coreHz = 0#32 ∧ u.Quiet ∧ u.Released

/-! ## FINI -/

/-- FINI's steps (R334, R200). In `UNINIT` it succeeds at once and changes nothing; else it stops the DMA and the
outputs, disables the clock, holds until it has stopped or `CLK_TIMEOUT_US` has passed (log entries 10 and 11), and releases
the configuration, always with `Success`: that `RESULT` is written is R334's, R393 read as log entry 27 says. -/
def Obligations.FiniSteps : Prop :=
  ∀ (s : State) (t0 : BitVec 64),
    let late : Prop := s.cfg.clockMayFail = true ∧ t0.toNat + s.cfg.clkTimeoutUs ≤ s.tim.timeUs.toNat
    let lateAtOnce : Prop := s.cfg.clockMayFail = true ∧ s.cfg.clkTimeoutUs = 0
    let stopped (n : Chan) : Lane := { s.ser.lane.get n with left := 0, out := false, oe := false }
    (s.seq.phase = .start → s.seq.state = .uninit → exec .fini s = .next { s with
      seq := { s.seq with result := .success, hold := .none, cmdBusy := false, phase := .start } }) ∧
    (s.seq.phase = .start → s.seq.state ≠ .uninit → exec .fini s = .next { s with
      dma := { s.dma with active := false, loaded := false, ended := false, int := false, error := false
                          errCause := .none }
      ser := { enabled := false, fifo := [], lane := { ch0 := stopped .ch0, ch1 := stopped .ch1 } }
      seq := { s.seq with phase := .finiDisable, hold := .none } }) ∧
    (s.seq.phase = .finiDisable → ∃ h, (h = .clock ∨ h = .none) ∧
      (h = .clock ↔ s.env.busy = true ∧ ¬ lateAtOnce) ∧
      exec .fini s = .next { s with
        clk := { s.clk with enab := false }
        seq := { s.seq with phase := .finiRelease s.tim.timeUs, hold := h } }) ∧
    (s.seq.phase = .finiRelease t0 →
      (s.env.busy = true → ¬ late → exec .fini s = .next s) ∧
      (s.env.busy = false ∨ late → exec .fini s = .next { s with
        seq := { s.seq with state := .uninit, chainValid := false, xferErr := false, result := .success
                            hold := .none, cmdBusy := false, phase := .start }
        lat := { mode := .pwm, active := { ch0 := false, ch1 := false }, prof := none, coreHz := 0#32
                 freqL := 0#32, lanes := 0, built := none, geometry := s.lat.geometry }
        tim := { s.tim with renderWait := 0#64 } }))

/-- The step in which FINI of an initialised block completes leaves the quiescent state: DMA stopped, FIFO and lanes
empty, outputs and clock disabled, and the host's registers, the snapshots and every RAM as they were (R375). And in
every fair run without reset, with `CLOCK_MAY_FAIL = false` (R197), a running FINI completes, in `UNINIT` with `Success`
(R302, R418; fairness is a premise about the run, log entry 16). That `RESULT` is written is log entry 27. -/
def Obligations.FiniLeavesQuiet : Prop :=
  (∀ s t : State, s.Inv → s.env.rstN = true → s.nextEvent.1 = .sequencer → s.seq.cmdBusy = true →
    decodeCmd s.seq.cmd = .fini → s.seq.state ≠ .uninit → step s = .next t → t.seq.cmdBusy = false →
    t.seq.state = .uninit ∧ t.seq.result = .success ∧ t.dma.active = false ∧ t.ser.fifo = [] ∧
    t.ser.enabled = false ∧ t.clk.enab = false ∧
    (∀ l, (t.ser.lane.get l).left = 0 ∧ (t.ser.lane.get l).out = false ∧ (t.ser.lane.get l).oe = false) ∧
    t.regs = s.regs ∧ t.snap = s.snap ∧ t.ram = s.ram ∧ t.clk.divi = s.clk.divi) ∧
  (∀ (r : Nat → State) (ev : Nat → Event) (n : Nat), FairRun r ev → (r n).Inv → (r n).cfg.clockMayFail = false →
    (r n).seq.cmdBusy = true → decodeCmd (r n).seq.cmd = .fini → (∀ m, n ≤ m → (r m).env.rstN = true) →
    ∃ m, n ≤ m ∧ (r m).seq.cmdBusy = false ∧ (r m).seq.result = .success ∧ (r m).seq.state = .uninit ∧
      ∀ k, n ≤ k → k < m → (r k).seq.cmdBusy = true)

/-! ## RENDER -/

/-- RENDER's start and its two holds: on an uninitialised block it fails; it holds while the previous transfer has not
completed, then until `TIME_US` has reached the render wait time (R320 steps 1 to 3, R406). That the first check and
`HOLD <- PRIOR` are one step, and the end of that hold and `HOLD <- LATCH` one, is the model's choice (log entry 8). -/
def Obligations.RenderHolds : Prop :=
  ∀ s : State,
    let goes (p : Phase) (h : Hold) : Prop :=
      exec .render s = .next { s with seq := { s.seq with phase := p, hold := h } }
    (s.seq.phase = .start → s.seq.state = .uninit → exec .render s = .next { s with
      seq := { s.seq with result := .genericFailure, hold := .none, cmdBusy := false, phase := .start } }) ∧
    (s.seq.phase = .start → s.seq.state ≠ .uninit → goes .renderPrior .prior) ∧
    (s.seq.phase = .renderPrior → s.seq.state = .submitted → exec .render s = .next s) ∧
    (s.seq.phase = .renderPrior → s.seq.state ≠ .submitted → goes .renderLatch .latch) ∧
    (s.seq.phase = .renderLatch → s.tim.timeUs.toNat < s.tim.renderWait.toNat → exec .render s = .next s)

/-- RENDER's clear step, with the snapshot (R211) and the checks of the snapshot in their order (R320 steps 4 to 6). -/
def Obligations.RenderClearsAndSnapshots : Prop :=
  ∀ s : State, s.seq.phase = .renderLatch → s.tim.renderWait.toNat ≤ s.tim.timeUs.toNat →
    let reg (n : Chan) : ChanRegs := s.regs.chan.get n
    let white (n : Chan) : Bool := (reg n).layout.field 28 4 != 0#4
    let sn (n : Chan) : Snap := match s.lat.active.get n with
      | true => { count := (reg n).count, layout := (reg n).layout, white := white n
                  brightness := (reg n).brightness, invert := (reg n).invert }
      | false => { count := 0#16, layout := (reg n).layout, white := white n
                   brightness := (reg n).brightness, invert := false }
    let words (n : Chan) : Nat := (31 + 3 * ((sn n).count.toNat * (if (sn n).white then 32 else 24))) / 32
    let d : Nat := if s.lat.mode = .pwm then max (words .ch0) (words .ch1) else words .ch0
    let t : Nat := (31999999 + 165 * s.lat.freqL.toNat) / 32000000
    let l : Nat := if s.lat.mode = .pwm then 2 else 1
    let clear (q : Seq) : State := { s with
      seq := { q with state := .idle, xferErr := false, hold := .none }
      dma := { s.dma with ended := false, int := false, error := false, errCause := .none }
      snap := { ch0 := sn .ch0, ch1 := sn .ch1 } }
    let fails (c : RetCode) : Prop := exec .render s =
      .next (clear { s.seq with result := c, cmdBusy := false, phase := .start })
    let bad : Prop := ∃ n, 0 < (sn n).count.toNat ∧ layoutSupported (sn n).layout = false
    let large : Prop := ∃ n, s.cfg.maxLeds < (sn n).count.toNat
    let long : Prop := s.cfg.symWords < (d + t) * l
    (bad → fails .genericFailure) ∧ (¬ bad → large → fails .outOfMemory) ∧
    (¬ bad → ¬ large → long → fails .dma) ∧
    (¬ bad → ¬ large → ¬ long → exec .render s = .next (clear { s.seq with phase := .renderEnter }))

/-- The encoder's first steps: `ENCODING` is entered, then each step reads one pixel, channel 0's first, and makes its
wire group of the bytes at the layout's shifts, scaled and looked up in the channel's gamma table as both stand at
that step (R321 step 7, R225 step 1, R214, R215). A pixel word that has no value is drawn. -/
def Obligations.EncoderReadsPixels : Prop :=
  ∀ s : State,
    let out (n : Chan) (p : Word) (shift : Byte) : Byte :=
      (s.ram.gamma.get n).entry (BitVec.ofNat 8
        ((127 + ((p >>> shift.toNat).setWidth 8 : Byte).toNat * (s.snap.get n).brightness.toNat) / 255))
    let group (n : Chan) (p : Word) : Word :=
      let l := (s.snap.get n).layout
      if (s.snap.get n).white then
        out n p (l.field 16 8) ++ out n p (l.field 8 8) ++ out n p (l.field 0 8) ++ out n p (l.field 24 8)
      else 0#8 ++ out n p (l.field 16 8) ++ out n p (l.field 8 8) ++ out n p (l.field 0 8)
    (s.seq.phase = .renderEnter → exec .render s = .next { s with
      seq := { s.seq with state := .encoding, phase := .renderEncode [] [], hold := .work } }) ∧
    (∀ g0 g1, s.seq.phase = .renderEncode g0 g1 → g0.length < s.snap.ch0.count.toNat →
      ∃ p, exec .render s = .next { s with
          seq := { s.seq with phase := .renderEncode (g0 ++ [group .ch0 p]) g1, hold := .work }
          env := { s.env with draws := s.env.draws + 1 } } ∧
        ∀ w, s.ram.pixel.ch0.word? g0.length = some w → p = w) ∧
    (∀ g0 g1, s.seq.phase = .renderEncode g0 g1 → s.snap.ch0.count.toNat ≤ g0.length →
      g1.length < s.snap.ch1.count.toNat →
      ∃ p, exec .render s = .next { s with
          seq := { s.seq with phase := .renderEncode g0 (g1 ++ [group .ch1 p]), hold := .work }
          env := { s.env with draws := s.env.draws + 1 } } ∧
        ∀ w, s.ram.pixel.ch1.word? g1.length = some w → p = w)

/-- The encoder's last step writes `sym[0]` to `sym[N − 1]` and no other byte of any RAM (R222, R225 step 2); the words
are those of `Obligations.FrameEncoding`. -/
def Obligations.EncoderWritesFrame : Prop :=
  ∀ (s : State) (g0 g1 : List Word), s.seq.phase = .renderEncode g0 g1 →
    s.snap.ch0.count.toNat ≤ g0.length → s.snap.ch1.count.toNat ≤ g1.length →
    let g := geometry s.lat.mode s.lat.freqL s.snap
    ∃ t, exec .render s = .next t ∧
      t = { s with seq := { s.seq with phase := .renderBuild, hold := .work }, ram := t.ram } ∧
      (∀ q, q < g.n → ∃ w, (encodeFrame g s.snap { ch0 := g0, ch1 := g1 })[q]? = some w ∧
        t.ram.sym.word? q = some w) ∧
      SameBytesBut s t (fun r a => r = .sym ∧ a < 4 * g.n)

/-- Every bit of every symbol word of a frame: word `k · L + l` is word `k` of lane `l`, and its bit `31 − m` is
sub-bit `32k + m` of the lane's stream: `1, bit, 0` for each data bit of the wire groups, most significant first, then
padding and tail of 0, all complemented on an inverted lane (R216, R217, R220; R219 and R221 for the sizes and the
places). -/
def Obligations.FrameEncoding : Prop :=
  ∀ (mode : Mode) (freq : Word) (sn : Pair Snap) (groups : Pair (List Word)),
    let words (n : Chan) : Nat := (31 + 3 * ((sn.get n).count.toNat * (if (sn.get n).white then 32 else 24))) / 32
    let d : Nat := if mode = .pwm then max (words .ch0) (words .ch1) else words .ch0
    let t : Nat := (31999999 + 165 * freq.toNat) / 32000000
    let l : Nat := if mode = .pwm then 2 else 1
    geometry mode freq sn = { d := d, t := t, l := l } ∧
    (encodeFrame (geometry mode freq sn) sn groups).length = (d + t) * l ∧
    ∀ (n : Chan) (k m : Nat), n.toNat < l → k < d + t → m < 32 →
      let s := sn.get n
      let bpp : Nat := if s.white then 32 else 24
      let j := 32 * k + m
      let b := j / 3
      ∃ w, (encodeFrame (geometry mode freq sn) sn groups)[k * l + n.toNat]? = some w ∧
        (j < 3 * (s.count.toNat * bpp) →
          (j % 3 = 0 → w.getLsbD (31 - m) = !s.invert) ∧
          (j % 3 = 1 → ∀ x, (groups.get n)[b / bpp]? = some x →
            w.getLsbD (31 - m) = (x.getLsbD (bpp - 1 - b % bpp) != s.invert)) ∧
          (j % 3 = 2 → w.getLsbD (31 - m) = s.invert)) ∧
        (3 * (s.count.toNat * bpp) ≤ j → w.getLsbD (31 - m) = s.invert)

/-- What the encoder's output can be (R224): a byte of a group is an entry of the gamma table, so never above the
largest; at brightness 255 with the identity table a group is the pixel's bytes in slot order; at brightness 0 every byte
is entry 0; and the symbol words of `count` pixels. -/
def Obligations.EncoderProperties : Prop :=
  ∀ (sn : Snap) (gamma : Memory) (p : Word),
    let g := wireGroup sn gamma p
    let slot (x : Byte) : Byte := (p >>> x.toNat).setWidth 8
    let l := sn.layout
    (∀ k, k < sn.bpp / 8 → ∃ x, g.byte k = gamma.entry x) ∧
    (∀ (top : Byte), (∀ x, gamma.entry x ≤ top) → ∀ k, k < sn.bpp / 8 → g.byte k ≤ top) ∧
    (sn.brightness = 255#8 → (∀ x, gamma.entry x = x) →
      g = if sn.white then
          slot (l.field 16 8) ++ slot (l.field 8 8) ++ slot (l.field 0 8) ++ slot (l.field 24 8)
        else 0#8 ++ slot (l.field 16 8) ++ slot (l.field 8 8) ++ slot (l.field 0 8)) ∧
    (sn.brightness = 0#8 → ∀ k, k < sn.bpp / 8 → g.byte k = gamma.entry 0#8) ∧
    (sn.white = false → g.byte 3 = 0#8 ∧ sn.words = (31 + 72 * sn.count.toNat) / 32) ∧
    (sn.white = true → sn.words = 3 * sn.count.toNat)

/-- Brightness scaling is `c · b / 255` rounded to the nearest integer, and what follows of it (R213). -/
def Obligations.ScaleRounds : Prop :=
  ∀ c b : Byte,
    (scale c b).toNat = (c.toNat * b.toNat + 127) / 255 ∧
    2 * ((c.toNat * b.toNat : Int) - 255 * (scale c b).toNat).natAbs < 255 ∧
    scale c 255#8 = c ∧ scale c 0#8 = 0#8 ∧ scale 0#8 b = 0#8 ∧ scale c b ≤ c ∧
    (∀ c' : Byte, c ≤ c' → scale c b ≤ scale c' b) ∧ (∀ b' : Byte, b ≤ b' → scale c b ≤ scale c b')

/-- RENDER's build phase: a chain built for the same counts and layouts is kept and CB RAM not written; else the
sixteen words of the two blocks are written, with `GEOMETRY`, what the chain is built for and `CHAIN_VALID`, and
nothing else (R252). -/
def Obligations.BuildPhase : Prop :=
  ∀ s : State, s.seq.phase = .renderBuild →
    let b : Pair BuiltFor := { ch0 := { count := s.snap.ch0.count, layout := s.snap.ch0.layout }
                               ch1 := { count := s.snap.ch1.count, layout := s.snap.ch1.layout } }
    let g := geometry s.lat.mode s.lat.freqL s.snap
    let ti : Word := match s.lat.mode with
      | .pwm => 0x00050140#32 | .pcm => 0x00020140#32 | .spi => 0x00060140#32
    let bytes (n : Nat) : Word := BitVec.ofNat 32 (4 * g.l * n)
    let chain : List Word :=
      [ti, 0#32, 0x00200000#32, bytes g.d, 0#32, 0x00100020#32, 0#32, 0#32] ++
      [ti ||| 1#32, bytes g.d, 0x00200000#32, bytes g.t, 0#32, 0#32, 0#32, 0#32]
    chainWords s.lat.mode g = chain ∧
    (s.seq.chainValid = true → s.lat.built = some b →
      exec .render s = .next { s with seq := { s.seq with phase := .renderArm, hold := .work } }) ∧
    (¬ (s.seq.chainValid = true ∧ s.lat.built = some b) → ∃ t, exec .render s = .next t ∧
      t = { s with
        seq := { s.seq with chainValid := true, phase := .renderArm, hold := .work }
        lat := { s.lat with
          built := some b
          geometry := { d := BitVec.ofNat 16 g.d, t := BitVec.ofNat 14 g.t, lanes := BitVec.ofNat 2 g.l } }
        ram := t.ram } ∧
      (∀ k w, chain[k]? = some w → t.ram.cb.word? k = some w) ∧
      SameBytesBut s t (fun r a => r = .cb ∧ a < 64))

/-- After every build phase CB RAM words 0 to 15 are the chain for the current snapshot, whether it was rebuilt or
kept (R254). -/
def Obligations.ChainIsCurrent : Prop :=
  ∀ s t : State, s.Inv → s.env.rstN = true → s.nextEvent.1 = .sequencer → s.seq.cmdBusy = true →
    s.seq.phase = .renderBuild → step s = .next t →
    t.seq.phase = .renderArm ∧ t.snap = s.snap ∧ t.dma.active = false ∧
    ∀ k w, (chainWords t.lat.mode (geometry t.lat.mode t.lat.freqL t.snap))[k]? = some w →
      t.ram.cb.word? k = some w

/-- RENDER's arming step, taken only with the scheduler stopped: the next render time, `SUBMITTED`, the scheduler
started at the first block with its status cleared, and `Success`; nothing else changes (R322, R262). -/
def Obligations.ArmsTheChain : Prop :=
  ∀ s : State, s.seq.phase = .renderArm → (s.Inv → s.dma.active = false) ∧
    let bits (x : Snap) : Nat := x.count.toNat * (if x.white then 32 else 24)
    let f : Nat := s.lat.freqL.toNat
    let wait : Nat := 300 + (f - 1 + 1000000 * max (bits s.snap.ch0) (bits s.snap.ch1)) / f
    exec .render s = .next { s with
      tim := { s.tim with renderWait := s.tim.timeUs + BitVec.ofNat 64 wait }
      dma := { s.dma with ended := false, int := false, error := false, errCause := .none
                          conblkAd := 0x00100000#32, loaded := false, active := true }
      seq := { s.seq with state := .submitted, result := .success, hold := .none, cmdBusy := false
                          phase := .start } }

/-! ## WAIT and SET_GAMMA -/

/-- WAIT's steps and the code each ends with (R331); elapsed time is on integers (log entry 11). -/
def Obligations.WaitCompletes : Prop :=
  ∀ (s : State) (t0 : BitVec 64),
    let ends (c : RetCode) : Prop := exec .wait s = .next { s with
      seq := { s.seq with result := c, hold := .none, cmdBusy := false, phase := .start } }
    let late : Prop := t0.toNat + s.cfg.waitTimeoutUs ≤ s.tim.timeUs.toNat
    (s.seq.phase = .start →
      (s.seq.state = .uninit → ends .genericFailure) ∧ (s.seq.state = .idle → ends .success) ∧
      (s.seq.state ≠ .uninit → s.seq.state ≠ .idle → exec .wait s = .next { s with
        seq := { s.seq with phase := .waitHold s.tim.timeUs, hold := .waitCmd } })) ∧
    (s.seq.phase = .waitHold t0 →
      (s.seq.state = .submitted → ¬ late → exec .wait s = .next s) ∧
      (s.seq.state = .submitted → late → ends .dma) ∧
      (s.seq.state ≠ .submitted → s.seq.xferErr = true → ends .dma) ∧
      (s.seq.state ≠ .submitted → s.seq.xferErr = false → ends .success))

/-- SET_GAMMA: a factor of 0 is refused with the table unchanged; else the channel's table becomes the generated one in
the same step, in every `STATE`, and no other byte of any RAM changes (R330). The table is
`Obligations.GammaGenRoundsThePower`'s. -/
def Obligations.SetGammaWritesTable : Prop :=
  ∀ (s : State) (ch : Chan),
    (s.regs.gammaFactor = 0#32 → exec (.setGamma ch) s = .next { s with
      seq := { s.seq with result := .genericFailure, hold := .none, cmdBusy := false, phase := .start } }) ∧
    (s.regs.gammaFactor ≠ 0#32 → ∃ t, exec (.setGamma ch) s = .next t ∧
      t = { s with
        seq := { s.seq with result := .success, hold := .none, cmdBusy := false, phase := .start }
        ram := t.ram } ∧
      (∀ x : Byte, (gammaGen s.regs.gammaFactor)[x.toNat]? = some ((t.ram.gamma.get ch).entry x)) ∧
      SameBytesBut s t (fun r a => r = .gamma ch ∧ a < 256))

/-- `GammaGen(F)` is `floor(255 · (i/255)^(F/65536) + 1/2)`, the power in real arithmetic (R231). -/
def Obligations.GammaGenRoundsThePower : Prop :=
  ∀ f : Word, f ≠ 0#32 → (gammaGen f).length = 256 ∧
    ∀ i : Nat, i < 256 → ∃ v : Byte, (gammaGen f)[i]? = some v ∧
      v.toNat = ⌊255 * ((i : ℝ) / 255) ^ ((f.toNat : ℝ) / 65536) + 1 / 2⌋₊

/-- Properties of `GammaGen` (R232, R233): the integer form for whole exponents; the identity for factor 1.0; 0 and 255
are kept; it is nondecreasing; a factor above 1.0 darkens and one below brightens. -/
def Obligations.GammaGenProperties : Prop :=
  let entry (f : Word) (i : Nat) : Nat := ((gammaGen f)[i]?.getD 0#8).toNat
  (∀ (k i : Nat), 1 ≤ k → k < 65536 → i < 256 →
    entry (BitVec.ofNat 32 (65536 * k)) i = (2 * i ^ k + 255 ^ (k - 1)) / (2 * 255 ^ (k - 1))) ∧
  (∀ i, i < 256 → entry 0x00010000#32 i = i) ∧
  (∀ f : Word, f ≠ 0#32 → entry f 0 = 0 ∧ entry f 255 = 255 ∧
    (∀ i j, i ≤ j → j < 256 → entry f i ≤ entry f j) ∧
    (∀ i, i < 256 → 65536 < f.toNat → entry f i ≤ i) ∧
    (∀ i, i < 256 → f.toNat < 65536 → i ≤ entry f i))

/-! ## The DMA scheduler -/

/-- The fetch step: its checks in their order, each with its cause, and the registers it loads (R264); the checks' error
entry is R362's. `exec` of a legal block loads it; a step of the machine fetches the eight words at a legal address. -/
def Obligations.BlockFetch : Prop :=
  ∀ s : State, s.dma.loaded = false →
    let err (u : State) (c : DmaCause) : State := { u with
      dma := { u.dma with active := false, loaded := false, error := true, errCause := c }
      seq := { u.seq with
        xferErr := true
        state := if u.seq.state = .submitted then .complete else u.seq.state }
      ser := { u.ser with
        fifo := []
        lane := { ch0 := { u.ser.lane.ch0 with left := 0, out := u.ser.lane.ch0.oe && u.snap.ch0.invert }
                  ch1 := { u.ser.lane.ch1 with left := 0, out := u.ser.lane.ch1.oe && u.snap.ch1.invert } } } }
    let load (u : State) (w0 w1 w2 w3 w5 : Word) : State := { u with
      dma := { u.dma with ti := w0, sourceAd := w1, destAd := w2, txfrLen := w3, nextConbk := w5, loaded := true } }
    (∀ b : CtrlBlock, b.wellFormed = true → b.txfrLen.toNat % 4 = 0 →
      exec (.cb b) s = .next (load s (tiWord b.ti) b.sourceAd b.destAd b.txfrLen b.nextConbk)) ∧
    (∀ es, s.env.rstN = true → s.env.events = .scheduler :: es → s.dma.active = true →
      let u : State := { s with env := { s.env with events := es, draws := s.env.draws + 8 } }
      let a := s.dma.conblkAd.toNat
      (¬ (a % 32 = 0 ∧ 0x00100000 ≤ a ∧ a < 0x00100100) → step s = .next (err u .cbAddr)) ∧
      ∀ (j : Nat) (w0 w1 w2 w3 w4 w5 w6 w7 : Word), j < 8 → a = 0x00100000 + 32 * j →
        s.ram.cb.word? (8 * j) = some w0 → s.ram.cb.word? (8 * j + 1) = some w1 →
        s.ram.cb.word? (8 * j + 2) = some w2 → s.ram.cb.word? (8 * j + 3) = some w3 →
        s.ram.cb.word? (8 * j + 4) = some w4 → s.ram.cb.word? (8 * j + 5) = some w5 →
        s.ram.cb.word? (8 * j + 6) = some w6 → s.ram.cb.word? (8 * j + 7) = some w7 →
        let illFormed : Prop := w0 &&& 0xFFE0FEAE#32 ≠ 0#32 ∨
          ¬ (w0.field 16 5 = 0#5 ∨ w0.field 16 5 = 2#5 ∨ w0.field 16 5 = 5#5 ∨ w0.field 16 5 = 6#5) ∨
          w3.field 30 2 ≠ 0#2 ∨ w4 ≠ 0#32
        (illFormed → step s = .next (err u .cbFormat)) ∧
        (¬ illFormed → w3.toNat % 4 ≠ 0 → step s = .next (err u .lenAlign)) ∧
        (¬ illFormed → w3.toNat % 4 = 0 → step s = .next (load u w0 w1 w2 w3 w5)))

/-- The move step of a loaded block: held by its DREQ, or checked in order, or one word moved and the registers advanced
(R269, R270, R271). A source word that has no value is drawn. -/
def Obligations.WordMove : Prop :=
  ∀ (s : State) (b : CtrlBlock), s.dma.loaded = true → s.dma.txfrLen ≠ 0#32 →
    s.ser.fifo.length ≤ s.cfg.fifoDepth →
    let err (c : DmaCause) : State := { s with
      dma := { s.dma with active := false, loaded := false, error := true, errCause := c }
      seq := { s.seq with
        xferErr := true
        state := if s.seq.state = .submitted then .complete else s.seq.state }
      ser := { s.ser with
        fifo := []
        lane := { ch0 := { s.ser.lane.ch0 with left := 0, out := s.ser.lane.ch0.oe && s.snap.ch0.invert }
                  ch1 := { s.ser.lane.ch1 with left := 0, out := s.ser.lane.ch1.oe && s.snap.ch1.invert } } } }
    let p := s.dma.ti.field 16 5
    let used : BitVec 5 := match s.lat.mode with | .pwm => 5#5 | .pcm => 2#5 | .spi => 6#5
    let dreq : Prop := p = 0#5 ∨ p = used ∧ s.ser.fifo.length < s.cfg.fifoDepth
    let src := s.dma.sourceAd.toNat
    let dst := s.dma.destAd.toNat
    let srcOk : Prop := src % 4 = 0 ∧ src < 4 * s.cfg.symWords
    let destOk : Prop := dst % 4 = 0 ∧ (dst < 4 * s.cfg.symWords ∨ dst = 0x00200000)
    let full : Prop := dst = 0x00200000 ∧ s.ser.fifo.length = s.cfg.fifoDepth
    let moved : Dma := { s.dma with
      sourceAd := if s.dma.ti.getLsbD 8 then s.dma.sourceAd + 4#32 else s.dma.sourceAd
      destAd := if s.dma.ti.getLsbD 4 then s.dma.destAd + 4#32 else s.dma.destAd
      txfrLen := s.dma.txfrLen - 4#32 }
    let drawn : Env := { s.env with draws := s.env.draws + 1 }
    (s.dma.ti.getLsbD 6 = true → ¬ dreq → exec (.cb b) s = .next s) ∧
    (s.dma.ti.getLsbD 6 = false ∨ dreq →
      (¬ srcOk → exec (.cb b) s = .next (err .srcBus)) ∧
      (srcOk → ¬ destOk → exec (.cb b) s = .next (err .destBus)) ∧
      (srcOk → destOk → full → exec (.cb b) s = .next (err .fifoOverflow)) ∧
      (srcOk → destOk → ¬ full → ∃ v,
        (∀ w, s.ram.sym.word? (src / 4) = some w → v = w) ∧
        (dst = 0x00200000 → exec (.cb b) s = .next { s with
          dma := moved, env := drawn, ser := { s.ser with fifo := s.ser.fifo ++ [v] } }) ∧
        (dst ≠ 0x00200000 → ∃ t, exec (.cb b) s = .next t ∧
          t = { s with dma := moved, env := drawn, ram := t.ram } ∧
          t.ram.sym.word? (dst / 4) = some v ∧
          SameBytesBut s t (fun r a => r = .sym ∧ dst ≤ a ∧ a < dst + 4))))

/-- The finish step of a loaded block, with the chain advance (R272, R273), and the completion step of an idle scheduler
(R276). -/
def Obligations.BlockFinishAndCompletion : Prop :=
  (∀ (s : State) (b : CtrlBlock), s.dma.loaded = true → s.dma.txfrLen = 0#32 →
    let int := s.dma.int || s.dma.ti.getLsbD 0
    (s.dma.nextConbk = 0#32 → exec (.cb b) s = .next { s with
      dma := { s.dma with int := int, loaded := false, ended := true, active := false } }) ∧
    (s.dma.nextConbk ≠ 0#32 → exec (.cb b) s = .next { s with
      dma := { s.dma with int := int, loaded := false, conblkAd := s.dma.nextConbk } })) ∧
  (∀ (s : State) (es : List Event), s.env.rstN = true → s.env.events = .scheduler :: es →
    s.dma.active = false →
    let done : Prop := s.seq.state = .submitted ∧ s.dma.ended = true ∧ s.dma.int = true ∧ s.ser.fifo = [] ∧
      ∀ l, (s.ser.lane.get l).left = 0
    (done → step s = .next { s with
      env := { s.env with events := es }
      seq := { s.seq with state := .complete } }) ∧
    (¬ done → step s = .next { s with env := { s.env with events := es } }))

/-- Whichever step raises a DMA error, all that changes is: the scheduler stops with the cause recorded, the FIFO and the
lanes are flushed to their idle levels, `XFER_ERR` is set and a transfer is over; `END`, `INT`, `DMA_CONBLK_AD` and
the loaded-block registers keep their values (R362, R286), and so do the latched configuration, the snapshots, every
RAM and `CHAIN_VALID` (R363). The event is consumed and drawn values are counted. -/
def Obligations.DmaErrorEntry : Prop :=
  ∀ s t : State, step s = .next t → s.dma.error = false → t.dma.error = true →
    t = { s with
      env := { s.env with events := t.env.events, draws := t.env.draws }
      dma := { s.dma with active := false, loaded := false, error := true, errCause := t.dma.errCause }
      seq := { s.seq with
        xferErr := true
        state := if s.seq.state = .submitted then .complete else s.seq.state }
      ser := { s.ser with
        fifo := []
        lane := { ch0 := { s.ser.lane.ch0 with left := 0, out := s.ser.lane.ch0.oe && s.snap.ch0.invert }
                  ch1 := { s.ser.lane.ch1 with left := 0, out := s.ser.lane.ch1.oe && s.snap.ch1.invert } } } } ∧
    t.dma.errCause ≠ .none

/-! ## The serializer -/

/-- The tick (R282, R283): with the clock stopped or the serializer disabled it does nothing; an underrun raises the
error, or the serializer holds where `TRANSFER_ERRORS` is `never`; else the lanes in use load together when they are
empty, and each sends bit 31 of its shift register, or its idle level. A lane whose enable is 0 drives 0. -/
def Obligations.TickShifts : Prop :=
  ∀ (s : State) (es : List Event), s.env.rstN = true → s.env.events = .serializer :: es →
    let u : State := { s with env := { s.env with events := es } }
    let runs : Prop := s.ser.enabled = true ∧ s.clk.enab = true ∧ s.env.busy = true
    let empty : Prop := s.ser.lane.ch0.left = 0
    let enough : Prop := s.lat.lanes ≤ s.ser.fifo.length
    let shift (l : Lane) (idle : Bool) : Lane := match l.left with
      | 0 => { l with out := l.oe && idle }
      | k + 1 => { l with shreg := l.shreg <<< 1, left := k, out := l.oe && l.shreg.getLsbD 31 }
    let sends (fifo : List Word) (lane : Chan → Lane) : Prop := ∃ t, step s = .next t ∧
      t = { u with ser := { s.ser with fifo := fifo, lane := t.ser.lane } } ∧
      ∀ l : Chan, (l.toNat < s.lat.lanes → t.ser.lane.get l = shift (lane l) (s.snap.get l).invert) ∧
        (s.lat.lanes ≤ l.toNat → t.ser.lane.get l = s.ser.lane.get l)
    let underrun : State := { u with
      dma := { s.dma with active := false, loaded := false, error := true, errCause := .underrun }
      seq := { s.seq with
        xferErr := true
        state := if s.seq.state = .submitted then .complete else s.seq.state }
      ser := { s.ser with
        fifo := []
        lane := { ch0 := { s.ser.lane.ch0 with left := 0, out := s.ser.lane.ch0.oe && s.snap.ch0.invert }
                  ch1 := { s.ser.lane.ch1 with left := 0, out := s.ser.lane.ch1.oe && s.snap.ch1.invert } } } }
    (¬ runs → step s = .next u) ∧
    (runs → empty → ¬ enough → s.dma.active = true →
      (s.cfg.transferErrors = .never → step s = .next u) ∧
      (s.cfg.transferErrors = .anytime → step s = .next underrun)) ∧
    (runs → empty → ¬ enough → s.dma.active = false → sends s.ser.fifo s.ser.lane.get) ∧
    (runs → empty → enough → sends (s.ser.fifo.drop s.lat.lanes) (fun l =>
      { s.ser.lane.get l with shreg := (s.ser.fifo[l.toNat]?).getD 0#32, left := 32 })) ∧
    (runs → ¬ empty → sends s.ser.fifo s.ser.lane.get)

/-- What a step does to the sub-bits still to be sent of a frame in flight: a tick sends the first of them on each lane
in use, the idle level where none is left; no other step that leaves the transfer running changes them or a lane's
output; and the transfer completes without an error only when none is left (R276, R281, R282, R287). -/
def Obligations.WireStep : Prop :=
  ∀ (s t : State) (g : Geometry) (frame : List Word), s.Inv → s.env.rstN = true → s.InFlight g frame →
    s.seq.state = .submitted → ¬ s.seq.phase.stopping → step s = .next t → t.env.rstN = true →
    ¬ t.seq.phase.stopping → t.dma.error = false →
    (t.seq.state = .submitted → t.InFlight g frame ∧ ∀ l : Chan, l.toNat < s.lat.lanes →
      (s.tickNext → t.laneAhead g frame l = (s.laneAhead g frame l).tail ∧
        (t.ser.lane.get l).out = ((s.ser.lane.get l).oe &&
          ((s.laneAhead g frame l).head?.getD (s.snap.get l).invert))) ∧
      (¬ s.tickNext → t.laneAhead g frame l = s.laneAhead g frame l ∧
        (t.ser.lane.get l).out = (s.ser.lane.get l).out)) ∧
    (t.seq.state ≠ .submitted → t.seq.state = .complete ∧
      ∀ l : Chan, l.toNat < s.lat.lanes → s.laneAhead g frame l = [] ∧ t.laneAhead g frame l = [])

/-- What the wire carries (R287): over a run from the arming step of a RENDER whose frame is in symbol RAM, for as long
as there is no DMA error, no FINI, no reset and no further RENDER past its clear step, the `i`-th tick puts sub-bit `i`
of the lane's stream on the lane, and the idle level after the last. -/
def Obligations.WireCarriesFrame : Prop :=
  ∀ (r : Nat → State) (ev : Nat → Event) (groups : Pair (List Word)), IsRun r ev →
    let s := r 0
    let g := geometry s.lat.mode s.lat.freqL s.snap
    s.Inv → s.env.rstN = true → ev 0 = .sequencer → s.seq.cmdBusy = true → s.seq.phase = .renderArm →
    (∀ q w, (encodeFrame g s.snap groups)[q]? = some w → s.ram.sym.word? q = some w) →
    ∀ n, (∀ m, 1 ≤ m → m ≤ n → (r m).env.rstN = true ∧ (r m).dma.error = false ∧ ¬ (r m).seq.phase.stopping ∧
        ((r m).seq.state = .submitted ∨ (r m).seq.state = .complete)) →
      ∀ (ticks : List Nat), ticks.Pairwise (· < ·) →
        (∀ m, m ∈ ticks ↔ 1 ≤ m ∧ m < n ∧ ((r m).given (ev m)).tickNext) →
        ∀ (l : Chan) (i m : Nat), l.toNat < s.lat.lanes → ticks[i]? = some m →
          ((r (m + 1)).ser.lane.get l).out =
            ((s.ser.lane.get l).oe && laneSubBit (s.snap.get l) (groups.get l) i)

/-- Once a transfer can complete it does: with a fair scheduler, in a run without FINI and without reset, `STATE` becomes
`COMPLETE` (R274, R276). And in every fair run without FINI and without reset, a transfer in flight ends in `COMPLETE`,
and, where `TRANSFER_ERRORS = never`, without an error and with no sub-bit left to send (R274, R276, R283, R418).
Fairness is a premise about the run (log entry 16). -/
def Obligations.CompletionIsReached : Prop :=
  (∀ (r : Nat → State) (ev : Nat → Event) (n : Nat), IsRun r ev → SchedulerFair r ev → (r n).Inv →
    (r n).completionReady = true → (∀ m, n ≤ m → (r m).env.rstN = true ∧ ¬ (r m).seq.phase.stopping) →
    ∃ m, n ≤ m ∧ (r m).seq.state = .complete ∧ (r m).seq.xferErr = false ∧
      ∀ k, n ≤ k → k < m → (r k).seq.state = .submitted) ∧
  (∀ (r : Nat → State) (ev : Nat → Event) (n : Nat) (g : Geometry) (frame : List Word), FairRun r ev → (r n).Inv →
    (r n).seq.state = .submitted → (r n).InFlight g frame →
    (∀ m, n ≤ m → (r m).env.rstN = true ∧ ¬ (r m).seq.phase.stopping) →
    ∃ m, n ≤ m ∧ (r m).seq.state = .complete ∧
      ((r n).cfg.transferErrors = .never → (r m).seq.xferErr = false ∧
        ∀ l : Chan, l.toNat < (r n).lat.lanes → (r m).laneAhead g frame l = []) ∧
      ∀ k, n ≤ k → k < m → (r k).seq.state = .submitted)

/-! ## The divider -/

/-- The divider minimises the frequency error, and is the smaller of two that tie (R192); it is 1 exactly when
`3 · core_hz ≤ 4 · f` (R193). -/
def Obligations.DividerMinimises : Prop :=
  ∀ hz freq : Nat, 0 < freq →
    let d := computeDivider hz freq
    let error (e : Nat) : ℚ := |(hz : ℚ) / e - 3 * freq|
    0 < d ∧ (∀ e : Nat, 0 < e → error d ≤ error e ∧ (error e = error d → d ≤ e)) ∧
    (d = 1 ↔ 3 * hz ≤ 4 * (3 * freq))
end

