-- ==== Sys2Proof/Laws/Encoder.lean ====
section
/-! SUPPORT. The encoder's small lemmas: the bits of a symbol word, and the sizes of a frame as closed formulas. -/

namespace Sys2Proof.Machine

/-- The folded bits, the first one highest. -/
theorem foldl_bits_testBit (f : Nat → Bool) (n : Nat) : ∀ m, m < n →
    ((List.range n).foldl (fun acc m => 2 * acc + (f m).toNat) 0).testBit (n - 1 - m) = f m := by
  induction n with
  | zero => intro m h; omega
  | succ n ih =>
    intro m h
    rw [List.range_succ, List.foldl_append]
    simp only [List.foldl_cons, List.foldl_nil]
    by_cases e : m = n
    · subst e
      simp only [Nat.add_sub_cancel, Nat.sub_self, Nat.testBit_zero]
      cases f m <;> simp
    · rw [← ih m (by omega), show n + 1 - 1 - m = (n - 1 - m) + 1 by omega, Nat.testBit_succ]
      congr 1
      cases f n
      · simp
      · simp
        omega

/-- Bit `31 − m` of a word of sub-bits is sub-bit `m` (R153). -/
theorem wordOfSubBits_getLsbD (f : Nat → Bool) (m : Nat) (h : m < 32) :
    (wordOfSubBits f).getLsbD (31 - m) = f m := by
  unfold wordOfSubBits
  rw [BitVec.getLsbD_ofNat, show (31 - m) = 32 - 1 - m by omega, foldl_bits_testBit f 32 m h, decide_eq_true (by omega),
    Bool.true_and]

/-- `words(s)` (R212). -/
theorem words_eq (s : Snap) : s.words = (31 + 3 * (s.count.toNat * (if s.white then 32 else 24))) / 32 := rfl

/-- `T` (R219). -/
theorem tailWords_eq (f : Nat) : tailWords f = (31999999 + 165 * f) / 32000000 := by
  unfold tailWords ceilDiv resetUs spb
  norm_num

/-- The geometry of a frame (R219). -/
theorem geometry_eq (m : Mode) (f : Word) (sn : Pair Snap) :
    geometry m f sn =
      { d := if m = .pwm then max (sn.get .ch0).words (sn.get .ch1).words else (sn.get .ch0).words,
        t := tailWords f.toNat, l := if m = .pwm then 2 else 1 } := by
  cases m <;> rfl

end Sys2Proof.Machine
end

