-- ==== Sys2Proof/Laws/State.lean ====
section
/-! SUPPORT. What each named update does to each component of `State`: one lemma per component per update, true
by `rfl`, so that no proof unfolds a record update. -/

namespace Sys2Proof.Machine

namespace State

/-! ## `drew` -/

@[simp] theorem drew_cfg (s : State) (n : Nat) : (s.drew n).cfg = s.cfg := rfl
@[simp] theorem drew_env (s : State) (n : Nat) :
    (s.drew n).env = { s.env with draws := s.env.draws + n } := rfl
@[simp] theorem drew_regs (s : State) (n : Nat) : (s.drew n).regs = s.regs := rfl
@[simp] theorem drew_seq (s : State) (n : Nat) : (s.drew n).seq = s.seq := rfl
@[simp] theorem drew_lat (s : State) (n : Nat) : (s.drew n).lat = s.lat := rfl
@[simp] theorem drew_snap (s : State) (n : Nat) : (s.drew n).snap = s.snap := rfl
@[simp] theorem drew_clk (s : State) (n : Nat) : (s.drew n).clk = s.clk := rfl
@[simp] theorem drew_dma (s : State) (n : Nat) : (s.drew n).dma = s.dma := rfl
@[simp] theorem drew_ser (s : State) (n : Nat) : (s.drew n).ser = s.ser := rfl
@[simp] theorem drew_tim (s : State) (n : Nat) : (s.drew n).tim = s.tim := rfl
@[simp] theorem drew_ram (s : State) (n : Nat) : (s.drew n).ram = s.ram := rfl

/-! ## `complete` (R350) -/

@[simp] theorem complete_cfg (s : State) (code : RetCode) : (s.complete code).cfg = s.cfg := rfl
@[simp] theorem complete_env (s : State) (code : RetCode) : (s.complete code).env = s.env := rfl
@[simp] theorem complete_regs (s : State) (code : RetCode) : (s.complete code).regs = s.regs := rfl
@[simp] theorem complete_seq (s : State) (code : RetCode) :
    (s.complete code).seq = { s.seq with result := code, hold := .none, cmdBusy := false, phase := .start } :=
    rfl
@[simp] theorem complete_lat (s : State) (code : RetCode) : (s.complete code).lat = s.lat := rfl
@[simp] theorem complete_snap (s : State) (code : RetCode) : (s.complete code).snap = s.snap := rfl
@[simp] theorem complete_clk (s : State) (code : RetCode) : (s.complete code).clk = s.clk := rfl
@[simp] theorem complete_dma (s : State) (code : RetCode) : (s.complete code).dma = s.dma := rfl
@[simp] theorem complete_ser (s : State) (code : RetCode) : (s.complete code).ser = s.ser := rfl
@[simp] theorem complete_tim (s : State) (code : RetCode) : (s.complete code).tim = s.tim := rfl
@[simp] theorem complete_ram (s : State) (code : RetCode) : (s.complete code).ram = s.ram := rfl

/-! ## `goto` -/

@[simp] theorem goto_cfg (s : State) (p : Phase) (h : Hold) : (s.goto p h).cfg = s.cfg := rfl
@[simp] theorem goto_env (s : State) (p : Phase) (h : Hold) : (s.goto p h).env = s.env := rfl
@[simp] theorem goto_regs (s : State) (p : Phase) (h : Hold) : (s.goto p h).regs = s.regs := rfl
@[simp] theorem goto_seq (s : State) (p : Phase) (h : Hold) :
    (s.goto p h).seq = { s.seq with phase := p, hold := h } := rfl
@[simp] theorem goto_lat (s : State) (p : Phase) (h : Hold) : (s.goto p h).lat = s.lat := rfl
@[simp] theorem goto_snap (s : State) (p : Phase) (h : Hold) : (s.goto p h).snap = s.snap := rfl
@[simp] theorem goto_clk (s : State) (p : Phase) (h : Hold) : (s.goto p h).clk = s.clk := rfl
@[simp] theorem goto_dma (s : State) (p : Phase) (h : Hold) : (s.goto p h).dma = s.dma := rfl
@[simp] theorem goto_ser (s : State) (p : Phase) (h : Hold) : (s.goto p h).ser = s.ser := rfl
@[simp] theorem goto_tim (s : State) (p : Phase) (h : Hold) : (s.goto p h).tim = s.tim := rfl
@[simp] theorem goto_ram (s : State) (p : Phase) (h : Hold) : (s.goto p h).ram = s.ram := rfl

/-! ## `flush` (R286) -/

@[simp] theorem flush_cfg (s : State) : s.flush.cfg = s.cfg := rfl
@[simp] theorem flush_env (s : State) : s.flush.env = s.env := rfl
@[simp] theorem flush_regs (s : State) : s.flush.regs = s.regs := rfl
@[simp] theorem flush_seq (s : State) : s.flush.seq = s.seq := rfl
@[simp] theorem flush_lat (s : State) : s.flush.lat = s.lat := rfl
@[simp] theorem flush_snap (s : State) : s.flush.snap = s.snap := rfl
@[simp] theorem flush_clk (s : State) : s.flush.clk = s.clk := rfl
@[simp] theorem flush_dma (s : State) : s.flush.dma = s.dma := rfl
@[simp] theorem flush_ser (s : State) : s.flush.ser =
    { s.ser with
      fifo := []
      lane := { ch0 := s.ser.lane.ch0.flush s.snap.ch0.invert
                ch1 := s.ser.lane.ch1.flush s.snap.ch1.invert } } := rfl
@[simp] theorem flush_tim (s : State) : s.flush.tim = s.tim := rfl
@[simp] theorem flush_ram (s : State) : s.flush.ram = s.ram := rfl

/-! ## `raiseDmaError` (R362) -/

@[simp] theorem raiseDmaError_cfg (s : State) (c : DmaCause) : (s.raiseDmaError c).cfg = s.cfg := rfl
@[simp] theorem raiseDmaError_env (s : State) (c : DmaCause) : (s.raiseDmaError c).env = s.env := rfl
@[simp] theorem raiseDmaError_regs (s : State) (c : DmaCause) : (s.raiseDmaError c).regs = s.regs := rfl
@[simp] theorem raiseDmaError_seq (s : State) (c : DmaCause) : (s.raiseDmaError c).seq =
    { s.seq with
      xferErr := true
      state := if s.seq.state = .submitted then .complete else s.seq.state } := rfl
@[simp] theorem raiseDmaError_lat (s : State) (c : DmaCause) : (s.raiseDmaError c).lat = s.lat := rfl
@[simp] theorem raiseDmaError_snap (s : State) (c : DmaCause) : (s.raiseDmaError c).snap = s.snap := rfl
@[simp] theorem raiseDmaError_clk (s : State) (c : DmaCause) : (s.raiseDmaError c).clk = s.clk := rfl
@[simp] theorem raiseDmaError_dma (s : State) (c : DmaCause) :
    (s.raiseDmaError c).dma = { s.dma with active := false, loaded := false, error := true, errCause := c } :=
    rfl
@[simp] theorem raiseDmaError_ser (s : State) (c : DmaCause) : (s.raiseDmaError c).ser = s.flush.ser := rfl
@[simp] theorem raiseDmaError_tim (s : State) (c : DmaCause) : (s.raiseDmaError c).tim = s.tim := rfl
@[simp] theorem raiseDmaError_ram (s : State) (c : DmaCause) : (s.raiseDmaError c).ram = s.ram := rfl

/-! ## `setEnab` -/

@[simp] theorem setEnab_cfg (s : State) (v : Bool) : (s.setEnab v).cfg = s.cfg := rfl
@[simp] theorem setEnab_env (s : State) (v : Bool) : (s.setEnab v).env = s.env := rfl
@[simp] theorem setEnab_regs (s : State) (v : Bool) : (s.setEnab v).regs = s.regs := rfl
@[simp] theorem setEnab_seq (s : State) (v : Bool) : (s.setEnab v).seq = s.seq := rfl
@[simp] theorem setEnab_lat (s : State) (v : Bool) : (s.setEnab v).lat = s.lat := rfl
@[simp] theorem setEnab_snap (s : State) (v : Bool) : (s.setEnab v).snap = s.snap := rfl
@[simp] theorem setEnab_clk (s : State) (v : Bool) : (s.setEnab v).clk = { s.clk with enab := v } := rfl
@[simp] theorem setEnab_dma (s : State) (v : Bool) : (s.setEnab v).dma = s.dma := rfl
@[simp] theorem setEnab_ser (s : State) (v : Bool) : (s.setEnab v).ser = s.ser := rfl
@[simp] theorem setEnab_tim (s : State) (v : Bool) : (s.setEnab v).tim = s.tim := rfl
@[simp] theorem setEnab_ram (s : State) (v : Bool) : (s.setEnab v).ram = s.ram := rfl

/-! ## `setDivi` -/

@[simp] theorem setDivi_cfg (s : State) (d : BitVec 12) : (s.setDivi d).cfg = s.cfg := rfl
@[simp] theorem setDivi_env (s : State) (d : BitVec 12) : (s.setDivi d).env = s.env := rfl
@[simp] theorem setDivi_regs (s : State) (d : BitVec 12) : (s.setDivi d).regs = s.regs := rfl
@[simp] theorem setDivi_seq (s : State) (d : BitVec 12) : (s.setDivi d).seq = s.seq := rfl
@[simp] theorem setDivi_lat (s : State) (d : BitVec 12) : (s.setDivi d).lat = s.lat := rfl
@[simp] theorem setDivi_snap (s : State) (d : BitVec 12) : (s.setDivi d).snap = s.snap := rfl
@[simp] theorem setDivi_clk (s : State) (d : BitVec 12) :
    (s.setDivi d).clk = { s.clk with divi := d } := rfl
@[simp] theorem setDivi_dma (s : State) (d : BitVec 12) : (s.setDivi d).dma = s.dma := rfl
@[simp] theorem setDivi_ser (s : State) (d : BitVec 12) : (s.setDivi d).ser = s.ser := rfl
@[simp] theorem setDivi_tim (s : State) (d : BitVec 12) : (s.setDivi d).tim = s.tim := rfl
@[simp] theorem setDivi_ram (s : State) (d : BitVec 12) : (s.setDivi d).ram = s.ram := rfl

/-! ## `clockManagerStep` (R195) -/

@[simp] theorem clockManagerStep_cfg (s : State) : s.clockManagerStep.cfg = s.cfg := rfl
@[simp] theorem clockManagerStep_env (s : State) :
    s.clockManagerStep.env = { s.env with busy := s.clk.enab } := rfl
@[simp] theorem clockManagerStep_regs (s : State) : s.clockManagerStep.regs = s.regs := rfl
@[simp] theorem clockManagerStep_seq (s : State) : s.clockManagerStep.seq = s.seq := rfl
@[simp] theorem clockManagerStep_lat (s : State) : s.clockManagerStep.lat = s.lat := rfl
@[simp] theorem clockManagerStep_snap (s : State) : s.clockManagerStep.snap = s.snap := rfl
@[simp] theorem clockManagerStep_clk (s : State) : s.clockManagerStep.clk = s.clk := rfl
@[simp] theorem clockManagerStep_dma (s : State) : s.clockManagerStep.dma = s.dma := rfl
@[simp] theorem clockManagerStep_ser (s : State) : s.clockManagerStep.ser = s.ser := rfl
@[simp] theorem clockManagerStep_tim (s : State) : s.clockManagerStep.tim = s.tim := rfl
@[simp] theorem clockManagerStep_ram (s : State) : s.clockManagerStep.ram = s.ram := rfl

/-! ## `writeFrame` (R222) -/

@[simp] theorem writeFrame_cfg (s : State) (g : Pair (List Word)) : (s.writeFrame g).cfg = s.cfg := rfl
@[simp] theorem writeFrame_env (s : State) (g : Pair (List Word)) : (s.writeFrame g).env = s.env := rfl
@[simp] theorem writeFrame_regs (s : State) (g : Pair (List Word)) : (s.writeFrame g).regs = s.regs := rfl
@[simp] theorem writeFrame_seq (s : State) (g : Pair (List Word)) : (s.writeFrame g).seq = s.seq := rfl
@[simp] theorem writeFrame_lat (s : State) (g : Pair (List Word)) : (s.writeFrame g).lat = s.lat := rfl
@[simp] theorem writeFrame_snap (s : State) (g : Pair (List Word)) : (s.writeFrame g).snap = s.snap := rfl
@[simp] theorem writeFrame_clk (s : State) (g : Pair (List Word)) : (s.writeFrame g).clk = s.clk := rfl
@[simp] theorem writeFrame_dma (s : State) (g : Pair (List Word)) : (s.writeFrame g).dma = s.dma := rfl
@[simp] theorem writeFrame_ser (s : State) (g : Pair (List Word)) : (s.writeFrame g).ser = s.ser := rfl
@[simp] theorem writeFrame_tim (s : State) (g : Pair (List Word)) : (s.writeFrame g).tim = s.tim := rfl
@[simp] theorem writeFrame_ram (s : State) (g : Pair (List Word)) : (s.writeFrame g).ram =
    { s.ram with
      sym := s.ram.sym.setWords 0
        (encodeFrame (geometry s.lat.mode s.lat.freqL s.snap) s.snap g) } := rfl

/-! ## `writeGamma` (R330) -/

@[simp] theorem writeGamma_cfg (s : State) (n : Chan) (t : List Byte) :
    (s.writeGamma n t).cfg = s.cfg := rfl
@[simp] theorem writeGamma_env (s : State) (n : Chan) (t : List Byte) :
    (s.writeGamma n t).env = s.env := rfl
@[simp] theorem writeGamma_regs (s : State) (n : Chan) (t : List Byte) :
    (s.writeGamma n t).regs = s.regs := rfl
@[simp] theorem writeGamma_seq (s : State) (n : Chan) (t : List Byte) :
    (s.writeGamma n t).seq = s.seq := rfl
@[simp] theorem writeGamma_lat (s : State) (n : Chan) (t : List Byte) :
    (s.writeGamma n t).lat = s.lat := rfl
@[simp] theorem writeGamma_snap (s : State) (n : Chan) (t : List Byte) :
    (s.writeGamma n t).snap = s.snap := rfl
@[simp] theorem writeGamma_clk (s : State) (n : Chan) (t : List Byte) :
    (s.writeGamma n t).clk = s.clk := rfl
@[simp] theorem writeGamma_dma (s : State) (n : Chan) (t : List Byte) :
    (s.writeGamma n t).dma = s.dma := rfl
@[simp] theorem writeGamma_ser (s : State) (n : Chan) (t : List Byte) :
    (s.writeGamma n t).ser = s.ser := rfl
@[simp] theorem writeGamma_tim (s : State) (n : Chan) (t : List Byte) :
    (s.writeGamma n t).tim = s.tim := rfl
@[simp] theorem writeGamma_ram (s : State) (n : Chan) (t : List Byte) : (s.writeGamma n t).ram =
    { s.ram with gamma := s.ram.gamma.set n ((s.ram.gamma.get n).setEntries 0 t) } := rfl

/-! ## `buildChain` (R252) -/

@[simp] theorem buildChain_cfg (s : State) (m : Mode) (g : Geometry) :
    (s.buildChain m g).cfg = s.cfg := rfl
@[simp] theorem buildChain_env (s : State) (m : Mode) (g : Geometry) :
    (s.buildChain m g).env = s.env := rfl
@[simp] theorem buildChain_regs (s : State) (m : Mode) (g : Geometry) :
    (s.buildChain m g).regs = s.regs := rfl
@[simp] theorem buildChain_seq (s : State) (m : Mode) (g : Geometry) :
    (s.buildChain m g).seq = { s.seq with chainValid := true } := rfl
@[simp] theorem buildChain_lat (s : State) (m : Mode) (g : Geometry) : (s.buildChain m g).lat =
    { s.lat with
      geometry := { d := BitVec.ofNat 16 g.d, t := BitVec.ofNat 14 g.t, lanes := BitVec.ofNat 2 g.l }
      built := some (builtFor s.snap) } := rfl
@[simp] theorem buildChain_snap (s : State) (m : Mode) (g : Geometry) :
    (s.buildChain m g).snap = s.snap := rfl
@[simp] theorem buildChain_clk (s : State) (m : Mode) (g : Geometry) :
    (s.buildChain m g).clk = s.clk := rfl
@[simp] theorem buildChain_dma (s : State) (m : Mode) (g : Geometry) :
    (s.buildChain m g).dma = s.dma := rfl
@[simp] theorem buildChain_ser (s : State) (m : Mode) (g : Geometry) :
    (s.buildChain m g).ser = s.ser := rfl
@[simp] theorem buildChain_tim (s : State) (m : Mode) (g : Geometry) :
    (s.buildChain m g).tim = s.tim := rfl
@[simp] theorem buildChain_ram (s : State) (m : Mode) (g : Geometry) :
    (s.buildChain m g).ram = { s.ram with cb := s.ram.cb.setWords 0 (chainWords m g) } := rfl

/-! ## `arm` (R262) -/

@[simp] theorem arm_cfg (s : State) : s.arm.cfg = s.cfg := rfl
@[simp] theorem arm_env (s : State) : s.arm.env = s.env := rfl
@[simp] theorem arm_regs (s : State) : s.arm.regs = s.regs := rfl
@[simp] theorem arm_seq (s : State) : s.arm.seq = s.seq := rfl
@[simp] theorem arm_lat (s : State) : s.arm.lat = s.lat := rfl
@[simp] theorem arm_snap (s : State) : s.arm.snap = s.snap := rfl
@[simp] theorem arm_clk (s : State) : s.arm.clk = s.clk := rfl
@[simp] theorem arm_dma (s : State) : s.arm.dma =
    { s.dma.clearStatus with conblkAd := cbBase, loaded := false, active := true } := rfl
@[simp] theorem arm_ser (s : State) : s.arm.ser = s.ser := rfl
@[simp] theorem arm_tim (s : State) : s.arm.tim = s.tim := rfl
@[simp] theorem arm_ram (s : State) : s.arm.ram = s.ram := rfl

/-! ## `push` (R280) -/

@[simp] theorem push_cfg (s : State) (v : Word) : (s.push v).cfg = s.cfg := rfl
@[simp] theorem push_env (s : State) (v : Word) : (s.push v).env = s.env := rfl
@[simp] theorem push_regs (s : State) (v : Word) : (s.push v).regs = s.regs := rfl
@[simp] theorem push_seq (s : State) (v : Word) : (s.push v).seq = s.seq := rfl
@[simp] theorem push_lat (s : State) (v : Word) : (s.push v).lat = s.lat := rfl
@[simp] theorem push_snap (s : State) (v : Word) : (s.push v).snap = s.snap := rfl
@[simp] theorem push_clk (s : State) (v : Word) : (s.push v).clk = s.clk := rfl
@[simp] theorem push_dma (s : State) (v : Word) : (s.push v).dma = s.dma := rfl
@[simp] theorem push_ser (s : State) (v : Word) :
    (s.push v).ser = { s.ser with fifo := s.ser.fifo ++ [v] } := rfl
@[simp] theorem push_tim (s : State) (v : Word) : (s.push v).tim = s.tim := rfl
@[simp] theorem push_ram (s : State) (v : Word) : (s.push v).ram = s.ram := rfl

/-! ## `zeroPixels` (R312) -/

@[simp] theorem zeroPixels_cfg (s : State) : s.zeroPixels.cfg = s.cfg := rfl
@[simp] theorem zeroPixels_env (s : State) : s.zeroPixels.env = s.env := rfl
@[simp] theorem zeroPixels_regs (s : State) : s.zeroPixels.regs = s.regs := rfl
@[simp] theorem zeroPixels_seq (s : State) : s.zeroPixels.seq = s.seq := rfl
@[simp] theorem zeroPixels_lat (s : State) : s.zeroPixels.lat = s.lat := rfl
@[simp] theorem zeroPixels_snap (s : State) : s.zeroPixels.snap = s.snap := rfl
@[simp] theorem zeroPixels_clk (s : State) : s.zeroPixels.clk = s.clk := rfl
@[simp] theorem zeroPixels_dma (s : State) : s.zeroPixels.dma = s.dma := rfl
@[simp] theorem zeroPixels_ser (s : State) : s.zeroPixels.ser = s.ser := rfl
@[simp] theorem zeroPixels_tim (s : State) : s.zeroPixels.tim = s.tim := rfl
@[simp] theorem zeroPixels_ram (s : State) : s.zeroPixels.ram =
    { s.ram with
      pixel := { ch0 := s.ram.pixel.ch0.zeroWords s.cfg.maxLeds
                 ch1 := s.ram.pixel.ch1.zeroWords s.cfg.maxLeds } } := rfl

/-! ## `initCommit` (R312) -/

@[simp] theorem initCommit_cfg (s : State) (a : InitArgs) : (s.initCommit a).cfg = s.cfg := rfl
@[simp] theorem initCommit_env (s : State) (a : InitArgs) : (s.initCommit a).env = s.env := rfl
@[simp] theorem initCommit_regs (s : State) (a : InitArgs) : (s.initCommit a).regs = s.regs := rfl
@[simp] theorem initCommit_seq (s : State) (a : InitArgs) :
    (s.initCommit a).seq = { s.seq with chainValid := true, xferErr := false, state := .idle } := rfl
@[simp] theorem initCommit_lat (s : State) (a : InitArgs) : (s.initCommit a).lat =
    { s.lat with
      mode := a.mode, active := a.active, prof := some a.prof, coreHz := a.prof.coreHz, freqL := a.freq
      lanes := a.mode.lanes
      built := some (builtFor a.snap)
      geometry :=
        { d := BitVec.ofNat 16 (geometry a.mode a.freq a.snap).d
          t := BitVec.ofNat 14 (geometry a.mode a.freq a.snap).t
          lanes := BitVec.ofNat 2 (geometry a.mode a.freq a.snap).l } } := rfl
@[simp] theorem initCommit_snap (s : State) (a : InitArgs) : (s.initCommit a).snap = a.snap := rfl
@[simp] theorem initCommit_clk (s : State) (a : InitArgs) : (s.initCommit a).clk = s.clk := rfl
@[simp] theorem initCommit_dma (s : State) (a : InitArgs) : (s.initCommit a).dma = s.dma.clearStatus := rfl
@[simp] theorem initCommit_ser (s : State) (a : InitArgs) : (s.initCommit a).ser =
    s.ser.enable (outputEnables a.mode a.active) { ch0 := a.snap.ch0.invert, ch1 := a.snap.ch1.invert } := rfl
@[simp] theorem initCommit_tim (s : State) (a : InitArgs) :
    (s.initCommit a).tim = { s.tim with renderWait := 0#64 } := rfl
@[simp] theorem initCommit_ram (s : State) (a : InitArgs) : (s.initCommit a).ram =
    { s.zeroPixels.ram with
      cb := s.ram.cb.setWords 0 (chainWords a.mode (geometry a.mode a.freq a.snap)) } := rfl

/-! ## `finiStop` (R334) -/

@[simp] theorem finiStop_cfg (s : State) : s.finiStop.cfg = s.cfg := rfl
@[simp] theorem finiStop_env (s : State) : s.finiStop.env = s.env := rfl
@[simp] theorem finiStop_regs (s : State) : s.finiStop.regs = s.regs := rfl
@[simp] theorem finiStop_seq (s : State) : s.finiStop.seq = s.seq := rfl
@[simp] theorem finiStop_lat (s : State) : s.finiStop.lat = s.lat := rfl
@[simp] theorem finiStop_snap (s : State) : s.finiStop.snap = s.snap := rfl
@[simp] theorem finiStop_clk (s : State) : s.finiStop.clk = s.clk := rfl
@[simp] theorem finiStop_dma (s : State) :
    s.finiStop.dma = { s.dma.clearStatus with active := false, loaded := false } := rfl
@[simp] theorem finiStop_ser (s : State) : s.finiStop.ser = s.flush.ser.disable := rfl
@[simp] theorem finiStop_tim (s : State) : s.finiStop.tim = s.tim := rfl
@[simp] theorem finiStop_ram (s : State) : s.finiStop.ram = s.ram := rfl

/-! ## `finiRelease` (R334) -/

@[simp] theorem finiRelease_cfg (s : State) : s.finiRelease.cfg = s.cfg := rfl
@[simp] theorem finiRelease_env (s : State) : s.finiRelease.env = s.env := rfl
@[simp] theorem finiRelease_regs (s : State) : s.finiRelease.regs = s.regs := rfl
@[simp] theorem finiRelease_seq (s : State) :
    s.finiRelease.seq = { s.seq with state := .uninit, chainValid := false, xferErr := false } := rfl
@[simp] theorem finiRelease_lat (s : State) :
    s.finiRelease.lat = { Latched.reset with geometry := s.lat.geometry } := rfl
@[simp] theorem finiRelease_snap (s : State) : s.finiRelease.snap = s.snap := rfl
@[simp] theorem finiRelease_clk (s : State) : s.finiRelease.clk = s.clk := rfl
@[simp] theorem finiRelease_dma (s : State) : s.finiRelease.dma = s.dma := rfl
@[simp] theorem finiRelease_ser (s : State) : s.finiRelease.ser = s.ser := rfl
@[simp] theorem finiRelease_tim (s : State) : s.finiRelease.tim = { s.tim with renderWait := 0#64 } := rfl
@[simp] theorem finiRelease_ram (s : State) : s.finiRelease.ram = s.ram := rfl

/-! ## `renderClear` (R320) -/

@[simp] theorem renderClear_cfg (s : State) : s.renderClear.cfg = s.cfg := rfl
@[simp] theorem renderClear_env (s : State) : s.renderClear.env = s.env := rfl
@[simp] theorem renderClear_regs (s : State) : s.renderClear.regs = s.regs := rfl
@[simp] theorem renderClear_seq (s : State) :
    s.renderClear.seq = { s.seq with state := .idle, xferErr := false } := rfl
@[simp] theorem renderClear_lat (s : State) : s.renderClear.lat = s.lat := rfl
@[simp] theorem renderClear_snap (s : State) : s.renderClear.snap = snapsOf s.regs.chan s.lat.active := rfl
@[simp] theorem renderClear_clk (s : State) : s.renderClear.clk = s.clk := rfl
@[simp] theorem renderClear_dma (s : State) : s.renderClear.dma = s.dma.clearStatus := rfl
@[simp] theorem renderClear_ser (s : State) : s.renderClear.ser = s.ser := rfl
@[simp] theorem renderClear_tim (s : State) : s.renderClear.tim = s.tim := rfl
@[simp] theorem renderClear_ram (s : State) : s.renderClear.ram = s.ram := rfl

/-! ## `renderArm` (R322) -/

@[simp] theorem renderArm_cfg (s : State) : s.renderArm.cfg = s.cfg := rfl
@[simp] theorem renderArm_env (s : State) : s.renderArm.env = s.env := rfl
@[simp] theorem renderArm_regs (s : State) : s.renderArm.regs = s.regs := rfl
@[simp] theorem renderArm_seq (s : State) : s.renderArm.seq = { s.seq with state := .submitted } := rfl
@[simp] theorem renderArm_lat (s : State) : s.renderArm.lat = s.lat := rfl
@[simp] theorem renderArm_snap (s : State) : s.renderArm.snap = s.snap := rfl
@[simp] theorem renderArm_clk (s : State) : s.renderArm.clk = s.clk := rfl
@[simp] theorem renderArm_dma (s : State) : s.renderArm.dma = s.arm.dma := rfl
@[simp] theorem renderArm_ser (s : State) : s.renderArm.ser = s.ser := rfl
@[simp] theorem renderArm_tim (s : State) :
    s.renderArm.tim = { s.tim with renderWait := s.nextRenderTime } := rfl
@[simp] theorem renderArm_ram (s : State) : s.renderArm.ram = s.ram := rfl

/-! ## `timerTick` (R60) -/

@[simp] theorem timerTick_cfg (s : State) : s.timerTick.cfg = s.cfg := rfl
@[simp] theorem timerTick_env (s : State) : s.timerTick.env = s.env := rfl
@[simp] theorem timerTick_regs (s : State) : s.timerTick.regs = s.regs := rfl
@[simp] theorem timerTick_seq (s : State) : s.timerTick.seq = s.seq := rfl
@[simp] theorem timerTick_lat (s : State) : s.timerTick.lat = s.lat := rfl
@[simp] theorem timerTick_snap (s : State) : s.timerTick.snap = s.snap := rfl
@[simp] theorem timerTick_clk (s : State) : s.timerTick.clk = s.clk := rfl
@[simp] theorem timerTick_dma (s : State) : s.timerTick.dma = s.dma := rfl
@[simp] theorem timerTick_ser (s : State) : s.timerTick.ser = s.ser := rfl
@[simp] theorem timerTick_tim (s : State) :
    s.timerTick.tim = { s.tim with timeUs := s.tim.timeUs + 1#64 } := rfl
@[simp] theorem timerTick_ram (s : State) : s.timerTick.ram = s.ram := rfl

/-! ## `resetLow` (R390) -/

@[simp] theorem resetLow_cfg (s : State) : s.resetLow.cfg = s.cfg := rfl
@[simp] theorem resetLow_env (s : State) : s.resetLow.env = { s.env with rstN := false } := rfl
@[simp] theorem resetLow_regs (s : State) : s.resetLow.regs = s.regs := rfl
@[simp] theorem resetLow_seq (s : State) : s.resetLow.seq = s.seq := rfl
@[simp] theorem resetLow_lat (s : State) : s.resetLow.lat = s.lat := rfl
@[simp] theorem resetLow_snap (s : State) : s.resetLow.snap = s.snap := rfl
@[simp] theorem resetLow_clk (s : State) : s.resetLow.clk = s.clk := rfl
@[simp] theorem resetLow_dma (s : State) : s.resetLow.dma = s.dma := rfl
@[simp] theorem resetLow_ser (s : State) : s.resetLow.ser = s.ser := rfl
@[simp] theorem resetLow_tim (s : State) : s.resetLow.tim = s.tim := rfl
@[simp] theorem resetLow_ram (s : State) : s.resetLow.ram = s.ram := rfl

/-! ## `setProfileId` (R30) -/

@[simp] theorem setProfileId_cfg (s : State) (v : Word) : (s.setProfileId v).cfg = s.cfg := rfl
@[simp] theorem setProfileId_env (s : State) (v : Word) :
    (s.setProfileId v).env = { s.env with profileId := v } := rfl
@[simp] theorem setProfileId_regs (s : State) (v : Word) : (s.setProfileId v).regs = s.regs := rfl
@[simp] theorem setProfileId_seq (s : State) (v : Word) : (s.setProfileId v).seq = s.seq := rfl
@[simp] theorem setProfileId_lat (s : State) (v : Word) : (s.setProfileId v).lat = s.lat := rfl
@[simp] theorem setProfileId_snap (s : State) (v : Word) : (s.setProfileId v).snap = s.snap := rfl
@[simp] theorem setProfileId_clk (s : State) (v : Word) : (s.setProfileId v).clk = s.clk := rfl
@[simp] theorem setProfileId_dma (s : State) (v : Word) : (s.setProfileId v).dma = s.dma := rfl
@[simp] theorem setProfileId_ser (s : State) (v : Word) : (s.setProfileId v).ser = s.ser := rfl
@[simp] theorem setProfileId_tim (s : State) (v : Word) : (s.setProfileId v).tim = s.tim := rfl
@[simp] theorem setProfileId_ram (s : State) (v : Word) : (s.setProfileId v).ram = s.ram := rfl

/-! ## `answer` (R100) -/

@[simp] theorem answer_cfg (s : State) (v : Word) : (s.answer v).cfg = s.cfg := rfl
@[simp] theorem answer_env (s : State) (v : Word) : (s.answer v).env = { s.env with bus := .data v } := rfl
@[simp] theorem answer_regs (s : State) (v : Word) : (s.answer v).regs = s.regs := rfl
@[simp] theorem answer_seq (s : State) (v : Word) : (s.answer v).seq = s.seq := rfl
@[simp] theorem answer_lat (s : State) (v : Word) : (s.answer v).lat = s.lat := rfl
@[simp] theorem answer_snap (s : State) (v : Word) : (s.answer v).snap = s.snap := rfl
@[simp] theorem answer_clk (s : State) (v : Word) : (s.answer v).clk = s.clk := rfl
@[simp] theorem answer_dma (s : State) (v : Word) : (s.answer v).dma = s.dma := rfl
@[simp] theorem answer_ser (s : State) (v : Word) : (s.answer v).ser = s.ser := rfl
@[simp] theorem answer_tim (s : State) (v : Word) : (s.answer v).tim = s.tim := rfl
@[simp] theorem answer_ram (s : State) (v : Word) : (s.answer v).ram = s.ram := rfl

end State

end Sys2Proof.Machine
end

