-- ==== Sys2Proof/Laws/Invariant.lean ====
section
/-! SUPPORT. What the invariant depends on: a step that leaves these components alone keeps it. -/

namespace Sys2Proof.Machine

variable {s t : State}

/-- Quiescence depends on the scheduler's `ACTIVE` and on the serializer. -/
theorem State.Quiet.congr (h : s.Quiet) (hd : t.dma.active = s.dma.active) (hs : t.ser = s.ser) : t.Quiet :=
  ⟨hd ▸ h.1, hs ▸ h.2, hs ▸ h.3, hs ▸ h.4, hs ▸ h.5⟩

/-- What a phase needs depends on these components. -/
theorem State.PhaseOk.congr (h : s.PhaseOk) (hc : t.cfg = s.cfg) (hst : t.seq.state = s.seq.state)
    (hp : t.seq.phase = s.seq.phase) (hcmd : s.seq.phase ≠ .start → t.seq.cmd = s.seq.cmd)
    (hcv : t.seq.chainValid = s.seq.chainValid) (hl : t.lat = s.lat) (hsn : t.snap = s.snap)
    (hclk : t.clk = s.clk) (hd : t.dma = s.dma) (hs : t.ser = s.ser) : t.PhaseOk := by
  have q : s.Quiet → t.Quiet := fun h => h.congr (by rw [hd]) hs
  unfold State.PhaseOk at *
  rw [hp]
  cases hph : s.seq.phase <;> rw [hph] at h <;>
    simp only [hph, ne_eq, reduceCtorEq, not_false_eq_true, forall_const, not_true_eq_false,
      false_implies] at h hcmd ⊢ <;>
    simp only [hc, hst, hcmd, hl, hsn, hclk, State.chainKept, hcv] at h ⊢ <;>
    first
      | exact h
      | exact ⟨h.1, h.2.1, h.2.2.1, q h.2.2.2⟩
      | exact ⟨h.1, h.2.1, h.2.2.1, q h.2.2.2.1, h.2.2.2.2⟩

/-- The invariant depends on these components; `BUSY` may have followed `ENAB` (R195). -/
theorem State.Inv.congr (h : s.Inv) (hc : t.cfg = s.cfg) (hst : t.seq.state = s.seq.state)
    (hh : t.seq.hold = s.seq.hold) (hb : t.seq.cmdBusy = false → t.seq.phase = .start)
    (hx : t.seq.xferErr = s.seq.xferErr) (hp : t.seq.phase = s.seq.phase)
    (hcmd : s.seq.phase ≠ .start → t.seq.cmd = s.seq.cmd) (hcv : t.seq.chainValid = s.seq.chainValid)
    (hl : t.lat = s.lat) (hsn : t.snap = s.snap) (hclk : t.clk = s.clk) (hd : t.dma = s.dma) (hs : t.ser = s.ser)
    (hbusy : t.env.busy = s.env.busy ∨ t.env.busy = s.clk.enab) (hw : t.tim.renderWait = s.tim.renderWait)
    (hcb : t.ram.cb = s.ram.cb) : t.Inv := by
  constructor
  · rw [hc]; exact h.cfgOk
  · exact hb
  · exact h.phase.congr hc hst hp hcmd hcv hl hsn hclk hd hs
  · rw [hp, hh]; exact h.hold
  · rw [hd, hst]; exact h.activeSubmitted
  · rw [hd]; exact h.loadedActive
  · rw [hd]; exact h.errorCause
  · rw [hst, hx]; exact h.xferErr
  · rw [hs, hc]; exact h.fifoBound
  · rw [hs]; exact h.left0
  · rw [hs, hl]; exact h.left1
  · rw [hs]; exact h.drive0
  · rw [hs]; exact h.drive1
  · rw [hsn]; exact h.white
  · rw [hst]
    intro e
    obtain ⟨a, b⟩ := h.uninit e
    exact ⟨a.congr (by rw [hd]) hs, by rw [hl]; exact b.1, by rw [hcv]; exact b.2, by rw [hw]; exact b.3⟩
  · rw [hst, hl]; exact h.lanes
  · rw [hst, hl, hsn]; exact h.snaps
  · rw [hst, hl]; exact h.freq
  · rw [hst, hp, hclk, hs]
    intro a b
    obtain ⟨c, d, e⟩ := h.running a b
    refine ⟨c, ?_, e⟩
    rcases hbusy with k | k <;> rw [k] <;> assumption
  · rw [hcv, hl, hcb, hc]
    unfold State.builtGeometry
    rw [hl]
    exact h.chain
  · rw [hd, hcv, hl]
    intro a
    obtain ⟨c, d⟩ := h.armed a
    refine ⟨c, fun b hb => ?_⟩
    have := d b hb
    unfold State.builtGeometry at *
    rw [hl]
    exact this
  · rw [hst, hd, hp]; exact h.finished
  · rw [hst, hs]; exact h.drained

/-- Taking the next event keeps the invariant. -/
theorem State.Inv.nextEvent (h : s.Inv) : s.nextEvent.2.Inv := by
  unfold State.nextEvent
  split <;> exact h.congr rfl rfl rfl h.idlePhase rfl rfl (fun _ => rfl) rfl rfl rfl rfl rfl rfl (.inl rfl) rfl rfl

/-- An event given from outside keeps the invariant. -/
theorem State.Inv.given (h : s.Inv) (e : Event) : (s.given e).Inv :=
  h.congr rfl rfl rfl h.idlePhase rfl rfl (fun _ => rfl) rfl rfl rfl rfl rfl rfl (.inl rfl) rfl rfl

end Sys2Proof.Machine
end

