-- ==== Sys2Proof/Laws/Memory.lean ====
section
/-! SUPPORT. The laws of RAM: read after write, at the byte, the word and the table entry, and that every write
keeps the canonical form. None of the read laws needs the canonical form. -/

namespace Sys2Proof.Machine

variable {d : Nat → Option Byte} {m : Memory}

/-! ## Bytes -/

theorem Memory.find?_insert_same (m : Memory) (a : Nat) (b : Byte) : (m.insert a b).find? a = some b := by
  induction m with
  | nil => simp [Memory.insert, Memory.find?]
  | cons c m ih =>
    unfold Memory.insert
    split
    · simp [Memory.find?]
    · split
      · simp [Memory.find?]
      · rename_i h
        simp [Memory.find?, Ne.symm h, ih]

theorem Memory.find?_insert_other {a a' : Nat} (h : a' ≠ a) (m : Memory) (b : Byte) :
    (m.insert a b).find? a' = m.find? a' := by
  induction m with
  | nil => simp [Memory.insert, Memory.find?, h.symm]
  | cons c m ih =>
    unfold Memory.insert
    split
    · simp [Memory.find?, h.symm]
    · split
      · rename_i hc
        subst hc
        simp [Memory.find?, h.symm]
      · simp [Memory.find?, ih]

theorem Memory.find?_erase_same (m : Memory) (a : Nat) : (m.erase a).find? a = none := by
  induction m with
  | nil => rfl
  | cons c m ih =>
    unfold Memory.erase
    split
    · exact ih
    · rename_i h
      simp [Memory.find?, h, ih]

theorem Memory.find?_erase_other {a a' : Nat} (h : a' ≠ a) (m : Memory) :
    (m.erase a).find? a' = m.find? a' := by
  induction m with
  | nil => rfl
  | cons c m ih =>
    unfold Memory.erase
    split
    · rename_i hc
      subst hc
      simp [Memory.find?, h.symm, ih]
    · simp [Memory.find?, ih]

@[simp] theorem Memory.read_write_same (m : Memory) (a : Nat) (b : Byte) :
    (m.write d a b).read d a = some b := by
  by_cases h : d a = some b
  · simp [Memory.write, Memory.read, h, Memory.find?_erase_same]
  · simp [Memory.write, Memory.read, h, Memory.find?_insert_same]

theorem Memory.read_write_other {a a' : Nat} (h : a' ≠ a) (m : Memory) (b : Byte) :
    (m.write d a b).read d a' = m.read d a' := by
  by_cases hd : d a = some b
  · simp only [Memory.write, Memory.read, if_pos hd, Memory.find?_erase_other h]
  · simp only [Memory.write, Memory.read, if_neg hd, Memory.find?_insert_other h]

theorem Memory.read_nil (a : Nat) : Memory.read d [] a = d a := rfl

/-! ## The canonical form -/

theorem Memory.mem_insert {a : Nat} {b : Byte} {m : Memory} {c : Host.Cell} (h : c ∈ m.insert a b) :
    c = (a, b) ∨ c ∈ m := by
  induction m with
  | nil => exact .inl (by simpa [Memory.insert] using h)
  | cons c' m ih =>
    unfold Memory.insert at h
    split at h
    · exact List.mem_cons.mp h
    · split at h
      · rcases List.mem_cons.mp h with h | h
        · exact .inl h
        · exact .inr (List.mem_cons_of_mem _ h)
      · rcases List.mem_cons.mp h with h | h
        · exact .inr (h ▸ List.mem_cons_self)
        · exact (ih h).imp_right (List.mem_cons_of_mem _)

theorem Memory.mem_erase {a : Nat} {m : Memory} {c : Host.Cell} (h : c ∈ m.erase a) : c ∈ m := by
  induction m with
  | nil => exact h
  | cons c' m ih =>
    unfold Memory.erase at h
    split at h
    · exact List.mem_cons_of_mem _ (ih h)
    · rcases List.mem_cons.mp h with h | h
      · exact h ▸ List.mem_cons_self
      · exact List.mem_cons_of_mem _ (ih h)

/-- The canonical form, as propositions. -/
theorem Memory.wf_iff : m.wf d = true ↔
    m.Pairwise (fun c c' => c.1 < c'.1) ∧ ∀ c ∈ m, d c.1 ≠ some c.2 := by
  simp [Memory.wf]

theorem Memory.insert_wf {a : Nat} {b : Byte} (h : m.wf d) (hb : d a ≠ some b) : (m.insert a b).wf d := by
  obtain ⟨hs, hd⟩ := Memory.wf_iff.mp h
  refine Memory.wf_iff.mpr ⟨?_, fun c hc => ?_⟩
  · clear hd h
    induction m with
    | nil => simp [Memory.insert]
    | cons c m ih =>
      obtain ⟨hc, hm⟩ := List.pairwise_cons.mp hs
      unfold Memory.insert
      split
      · rename_i hlt
        refine List.pairwise_cons.mpr ⟨fun x hx => ?_, hs⟩
        rcases List.mem_cons.mp hx with rfl | hx
        · exact hlt
        · exact hlt.trans (hc x hx)
      · split
        · rename_i heq
          exact List.pairwise_cons.mpr ⟨fun x hx => heq ▸ hc x hx, hm⟩
        · refine List.pairwise_cons.mpr ⟨fun x hx => ?_, ih hm⟩
          rcases Memory.mem_insert hx with rfl | hx
          · show c.1 < a
            omega
          · exact hc x hx
  · rcases Memory.mem_insert hc with rfl | hc
    · exact hb
    · exact hd c hc

theorem Memory.erase_wf {a : Nat} (h : m.wf d) : (m.erase a).wf d := by
  obtain ⟨hs, hd⟩ := Memory.wf_iff.mp h
  refine Memory.wf_iff.mpr ⟨?_, fun c hc => hd c (Memory.mem_erase hc)⟩
  clear h hd
  induction m with
  | nil => exact hs
  | cons c m ih =>
    obtain ⟨hc, hm⟩ := List.pairwise_cons.mp hs
    unfold Memory.erase
    split
    · exact ih hm
    · exact List.pairwise_cons.mpr ⟨fun x hx => hc x (Memory.mem_erase hx), ih hm⟩

/-- A write keeps the canonical form. -/
theorem Memory.write_wf {a : Nat} {b : Byte} (h : m.wf d) : (m.write d a b).wf d := by
  unfold Memory.write
  split
  · exact Memory.erase_wf h
  · exact Memory.insert_wf h ‹_›

theorem Memory.nil_wf : Memory.wf d [] = true := by simp [Memory.wf]

theorem Memory.setWord_wf {k : Nat} {w : Word} (h : m.wf Memory.unspecified) :
    (m.setWord k w).wf Memory.unspecified :=
  Memory.write_wf (Memory.write_wf (Memory.write_wf (Memory.write_wf h)))

theorem Memory.setWords_wf {k : Nat} {ws : List Word} (h : m.wf Memory.unspecified) :
    (m.setWords k ws).wf Memory.unspecified := by
  induction ws generalizing k with
  | nil => exact h
  | cons w ws ih => exact Memory.setWord_wf ih

theorem Memory.zeroWords_wf {n : Nat} (h : m.wf Memory.unspecified) :
    (m.zeroWords n).wf Memory.unspecified := by
  induction n with
  | zero => exact h
  | succ n ih => exact Memory.setWord_wf ih

theorem Memory.setEntry_wf {x v : Byte} (h : m.wf Memory.identity) :
    (m.setEntry x v).wf Memory.identity := Memory.write_wf h

theorem Memory.setEntries_wf {k : Nat} {vs : List Byte} (h : m.wf Memory.identity) :
    (m.setEntries k vs).wf Memory.identity := by
  induction vs generalizing k with
  | nil => exact h
  | cons v vs ih => exact Memory.write_wf ih

/-- The canonical form of the six memories, one by one. -/
theorem Rams.wf_iff {r : Rams} : r.wf = true ↔
    r.pixel.ch0.wf Memory.unspecified = true ∧ r.pixel.ch1.wf Memory.unspecified = true ∧
    r.gamma.ch0.wf Memory.identity = true ∧ r.gamma.ch1.wf Memory.identity = true ∧
    r.sym.wf Memory.unspecified = true ∧ r.cb.wf Memory.unspecified = true := by
  simp [Rams.wf, and_assoc]

/-- A listed byte is found at its address. -/
theorem Memory.find?_eq_of_mem {m : Memory} (hs : m.Pairwise (fun c c' => c.1 < c'.1)) {c : Host.Cell}
    (hc : c ∈ m) : m.find? c.1 = some c.2 := by
  induction m with
  | nil => cases hc
  | cons c' m ih =>
    obtain ⟨h1, h2⟩ := List.pairwise_cons.mp hs
    rcases List.mem_cons.mp hc with rfl | hc
    · simp [Memory.find?]
    · have := h1 c hc
      simp [Memory.find?, Nat.ne_of_lt this, ih h2 hc]

/-! ## Words -/

theorem wordOfBytes_bytes (w : Word) : wordOfBytes (w.byte 0) (w.byte 1) (w.byte 2) (w.byte 3) = w := by
  unfold wordOfBytes Word.byte
  apply BitVec.eq_of_getLsbD_eq
  intro i hi
  simp only [BitVec.getLsbD_append, BitVec.getLsbD_extractLsb']
  repeat' split
  all_goals
    rw [decide_eq_true (by omega), Bool.true_and]
    congr 1
    omega

@[simp] theorem Memory.word?_setWord_same (m : Memory) (k : Nat) (w : Word) :
    (m.setWord k w).word? k = some w := by
  unfold Memory.setWord Memory.word?
  simp only [Memory.read_write_same,
    Memory.read_write_other (show 4 * k + 1 ≠ 4 * k by omega),
    Memory.read_write_other (show 4 * k + 2 ≠ 4 * k by omega),
    Memory.read_write_other (show 4 * k + 3 ≠ 4 * k by omega),
    Memory.read_write_other (show 4 * k + 2 ≠ 4 * k + 1 by omega),
    Memory.read_write_other (show 4 * k + 3 ≠ 4 * k + 1 by omega),
    Memory.read_write_other (show 4 * k + 3 ≠ 4 * k + 2 by omega), wordOfBytes_bytes]

/-- A word write leaves every byte outside the word alone. -/
theorem Memory.read_setWord_other {k a : Nat} (h : a < 4 * k ∨ 4 * k + 4 ≤ a) (m : Memory) (w : Word) :
    (m.setWord k w).read Memory.unspecified a = m.read Memory.unspecified a := by
  unfold Memory.setWord
  simp only [Memory.read_write_other (show a ≠ 4 * k by omega),
    Memory.read_write_other (show a ≠ 4 * k + 1 by omega),
    Memory.read_write_other (show a ≠ 4 * k + 2 by omega),
    Memory.read_write_other (show a ≠ 4 * k + 3 by omega)]

theorem Memory.word?_setWord_other {k j : Nat} (h : j ≠ k) (m : Memory) (w : Word) :
    (m.setWord k w).word? j = m.word? j := by
  unfold Memory.word?
  rw [Memory.read_setWord_other (a := 4 * j) (by omega), Memory.read_setWord_other (a := 4 * j + 1) (by omega),
    Memory.read_setWord_other (a := 4 * j + 2) (by omega), Memory.read_setWord_other (a := 4 * j + 3) (by omega)]

theorem Memory.word?_setWords_in {k j : Nat} {ws : List Word} {w : Word} (m : Memory) (hk : k ≤ j)
    (h : ws[j - k]? = some w) : (m.setWords k ws).word? j = some w := by
  induction ws generalizing k with
  | nil => simp at h
  | cons v ws ih =>
    unfold Memory.setWords
    by_cases hjk : j = k
    · subst hjk
      simp only [Nat.sub_self, List.getElem?_cons_zero, Option.some.injEq] at h
      rw [Memory.word?_setWord_same, h]
    · rw [Memory.word?_setWord_other hjk]
      refine ih (by omega) ?_
      rw [show j - k = (j - (k + 1)) + 1 by omega, List.getElem?_cons_succ] at h
      exact h

theorem Memory.read_setWords_out {k a : Nat} {ws : List Word} (m : Memory)
    (h : a < 4 * k ∨ 4 * (k + ws.length) ≤ a) :
    (m.setWords k ws).read Memory.unspecified a = m.read Memory.unspecified a := by
  induction ws generalizing k with
  | nil => rfl
  | cons v ws ih =>
    unfold Memory.setWords
    simp only [List.length_cons] at h
    rw [Memory.read_setWord_other (by omega), ih (by omega)]

theorem Memory.word?_setWords_out {k j : Nat} {ws : List Word} (m : Memory)
    (h : j < k ∨ k + ws.length ≤ j) : (m.setWords k ws).word? j = m.word? j := by
  unfold Memory.word?
  rw [Memory.read_setWords_out m (a := 4 * j) (by omega), Memory.read_setWords_out m (a := 4 * j + 1) (by omega),
    Memory.read_setWords_out m (a := 4 * j + 2) (by omega), Memory.read_setWords_out m (a := 4 * j + 3) (by omega)]

/-! ## Table entries -/

/-- The words zeroed read 0. -/
theorem Memory.word?_zeroWords_in {n k : Nat} (m : Memory) (h : k < n) :
    (m.zeroWords n).word? k = some 0#32 := by
  induction n with
  | zero => omega
  | succ n ih =>
    by_cases e : k = n
    · subst e; exact Memory.word?_setWord_same _ _ _
    · rw [Memory.zeroWords, Memory.word?_setWord_other e]; exact ih (by omega)

/-- The bytes above the words zeroed read as before. -/
theorem Memory.read_zeroWords_out {n a : Nat} (m : Memory) (h : 4 * n ≤ a) :
    (m.zeroWords n).read Memory.unspecified a = m.read Memory.unspecified a := by
  induction n with
  | zero => rfl
  | succ n ih => rw [Memory.zeroWords, Memory.read_setWord_other (by omega)]; exact ih (by omega)

@[simp] theorem Memory.entry_setEntry_same (m : Memory) (x v : Byte) : (m.setEntry x v).entry x = v := by
  unfold Memory.setEntry Memory.entry
  rw [Memory.read_write_same]

theorem Memory.entry_setEntry_other {x y : Byte} (h : y ≠ x) (m : Memory) (v : Byte) :
    (m.setEntry x v).entry y = m.entry y := by
  unfold Memory.setEntry Memory.entry
  rw [Memory.read_write_other (fun he => h (BitVec.eq_of_toNat_eq he))]

theorem Memory.entry_nil (x : Byte) : Memory.entry [] x = x := by
  unfold Memory.entry
  rw [Memory.read_nil]
  simp only [Memory.identity, show x.toNat < 256 from x.isLt, if_true]
  exact BitVec.eq_of_toNat_eq (by simp)

theorem Memory.read_setEntries_in {k a : Nat} {vs : List Byte} {v : Byte} (m : Memory) (hk : k ≤ a)
    (h : vs[a - k]? = some v) : (m.setEntries k vs).read Memory.identity a = some v := by
  induction vs generalizing k with
  | nil => simp at h
  | cons u vs ih =>
    unfold Memory.setEntries
    by_cases hak : a = k
    · subst hak
      simp only [Nat.sub_self, List.getElem?_cons_zero, Option.some.injEq] at h
      rw [Memory.read_write_same, h]
    · rw [Memory.read_write_other hak]
      refine ih (by omega) ?_
      rw [show a - k = (a - (k + 1)) + 1 by omega, List.getElem?_cons_succ] at h
      exact h

theorem Memory.entry_setEntries {vs : List Byte} {x v : Byte} (m : Memory) (h : vs[x.toNat]? = some v) :
    (m.setEntries 0 vs).entry x = v := by
  unfold Memory.entry
  rw [Memory.read_setEntries_in m (Nat.zero_le _) (by simpa using h)]

end Sys2Proof.Machine
end

