-- ==== Sys2Proof/Laws/PerInstr.lean ====
section
/-! SUPPORT. The family of statements made for each instruction as syntax: how many words it is encoded in. -/

namespace Sys2Proof.Laws.EncodeLength

/-- A command is one word, a control block eight (R140, R160). -/
def Statement (i : Instr) : Prop :=
  (encode i).length = match i.space with
    | .command => 1
    | .controlBlock => 8

theorem init : Statement .init := rfl

theorem fini : Statement .fini := rfl

theorem render : Statement .render := rfl

theorem wait : Statement .wait := rfl

theorem setGamma (ch : Chan) : Statement (.setGamma ch) := rfl

theorem cmdMalformed (op : Byte) (ch : Bool) (rsvd : BitVec 23) : Statement (.cmdMalformed op ch rsvd) := rfl

theorem cb (b : CtrlBlock) : Statement (.cb b) := rfl

end Sys2Proof.Laws.EncodeLength
end

