-- ==== Sys2Proof/Laws/Rams.lean ====
section
/-! SUPPORT. Each named update that writes a RAM keeps the canonical form of all six memories, and what the words
and entries it writes read as afterwards. -/

namespace Sys2Proof.Machine

namespace State

variable {s : State}

theorem buildChain_wf (m : Mode) (g : Geometry) (h : s.ram.wf) : (s.buildChain m g).ram.wf := by
  rw [buildChain_ram]
  generalize chainWords m g = ws
  obtain ⟨h0, h1, h2, h3, h4, h5⟩ := Rams.wf_iff.mp h
  exact Rams.wf_iff.mpr ⟨h0, h1, h2, h3, h4, Memory.setWords_wf h5⟩

theorem zeroPixels_wf (h : s.ram.wf) : s.zeroPixels.ram.wf := by
  rw [zeroPixels_ram]
  obtain ⟨h0, h1, h2, h3, h4, h5⟩ := Rams.wf_iff.mp h
  exact Rams.wf_iff.mpr ⟨Memory.zeroWords_wf h0, Memory.zeroWords_wf h1, h2, h3, h4, h5⟩

theorem writeFrame_wf (g : Pair (List Word)) (h : s.ram.wf) : (s.writeFrame g).ram.wf := by
  rw [writeFrame_ram]
  generalize encodeFrame _ _ _ = ws
  obtain ⟨h0, h1, h2, h3, h4, h5⟩ := Rams.wf_iff.mp h
  exact Rams.wf_iff.mpr ⟨h0, h1, h2, h3, Memory.setWords_wf h4, h5⟩

theorem writeGamma_wf (n : Chan) (t : List Byte) (h : s.ram.wf) : (s.writeGamma n t).ram.wf := by
  rw [writeGamma_ram]
  obtain ⟨h0, h1, h2, h3, h4, h5⟩ := Rams.wf_iff.mp h
  cases n
  · exact Rams.wf_iff.mpr ⟨h0, h1, Memory.setEntries_wf h2, h3, h4, h5⟩
  · exact Rams.wf_iff.mpr ⟨h0, h1, h2, Memory.setEntries_wf h3, h4, h5⟩

theorem initCommit_wf (a : InitArgs) (h : s.ram.wf) : (s.initCommit a).ram.wf := by
  rw [initCommit_ram]
  generalize chainWords _ _ = ws
  obtain ⟨h0, h1, h2, h3, h4, h5⟩ := Rams.wf_iff.mp (zeroPixels_wf h)
  exact Rams.wf_iff.mpr ⟨h0, h1, h2, h3, h4, Memory.setWords_wf h5⟩

/-- The chain's words are in CB RAM after it is built (R252). -/
theorem buildChain_word (m : Mode) (g : Geometry) {k : Nat} {w : Word} (h : (chainWords m g)[k]? = some w) :
    (s.buildChain m g).ram.cb.word? k = some w := by
  rw [buildChain_ram]
  revert h
  generalize chainWords m g = ws
  intro h
  exact Memory.word?_setWords_in _ (Nat.zero_le k) (by simpa using h)

/-- The bytes of CB RAM above the chain's sixteen words are unchanged (R252). -/
theorem buildChain_read (m : Mode) (g : Geometry) {a : Nat} (h : 64 ≤ a) :
    (s.buildChain m g).ram.cb.read Memory.unspecified a = s.ram.cb.read Memory.unspecified a := by
  have hl : (chainWords m g).length = 16 := rfl
  rw [buildChain_ram]
  revert hl
  generalize chainWords m g = ws
  intro hl
  exact Memory.read_setWords_out _ (.inr (by omega))

/-- A generated table's entries are in gamma RAM after it is written (R330). -/
theorem writeGamma_entry (n : Chan) {t : List Byte} {x v : Byte} (h : t[x.toNat]? = some v) :
    ((s.writeGamma n t).ram.gamma.get n).entry x = v := by
  rw [writeGamma_ram]
  cases n <;> exact Memory.entry_setEntries _ h

end State

end Sys2Proof.Machine
end

