-- ==== Sys2Proof/Laws/Steps.lean ====
section
/-! SUPPORT. What each transition function can do, said once: one inversion lemma per command, per turn and for the
step itself. Later proofs take a step apart with these and unfold nothing. -/

namespace Sys2Proof.Machine

open State

variable {s t : State}

/-! ## The commands -/

/-- INIT's steps (R198, R310, R312). -/
theorem execInit_cases (h : execInit s = .next t) :
    (∃ a, s.seq.phase = .initDisable a ∧
      t = (s.setEnab false).goto (.initProgram a s.tim.timeUs) (s.clockHold false)) ∨
    (∃ a t0, s.seq.phase = .initProgram a t0 ∧
      (s.clockHoldOver false t0 = false ∧ t = s ∨
        s.clockHoldOver false t0 = true ∧ s.env.busy = true ∧ t = s.complete a.mode.setupErr ∨
        s.clockHoldOver false t0 = true ∧ s.env.busy = false ∧
          t = (s.setDivi a.divi).goto (.initEnable a) .none)) ∨
    (∃ a, s.seq.phase = .initEnable a ∧
      t = (s.setEnab true).goto (.initCommit a s.tim.timeUs) (s.clockHold true)) ∨
    (∃ a t0, s.seq.phase = .initCommit a t0 ∧
      (s.clockHoldOver true t0 = false ∧ t = s ∨
        s.clockHoldOver true t0 = true ∧ s.env.busy = false ∧
          t = (s.setEnab false).complete a.mode.setupErr ∨
        s.clockHoldOver true t0 = true ∧ s.env.busy = true ∧ t = (s.initCommit a).complete .success)) ∨
    (∃ code, s.initChecks = .error code ∧ t = s.complete code) ∨
    (∃ a, s.initChecks = .ok a ∧ t = s.goto (.initDisable a) .none) := by
  unfold execInit at h
  split at h
  · exact .inl ⟨_, ‹_›, (Host.Outcome.next.inj h).symm⟩
  · refine .inr (.inl ⟨_, _, ‹_›, ?_⟩)
    split at h
    · exact .inl ⟨by simp_all, (Host.Outcome.next.inj h).symm⟩
    · split at h
      · exact .inr (.inl ⟨by simp_all, by simp_all, (Host.Outcome.next.inj h).symm⟩)
      · exact .inr (.inr ⟨by simp_all, by simp_all, (Host.Outcome.next.inj h).symm⟩)
  · exact .inr (.inr (.inl ⟨_, ‹_›, (Host.Outcome.next.inj h).symm⟩))
  · refine .inr (.inr (.inr (.inl ⟨_, _, ‹_›, ?_⟩)))
    split at h
    · exact .inl ⟨by simp_all, (Host.Outcome.next.inj h).symm⟩
    · split at h
      · exact .inr (.inl ⟨by simp_all, by simp_all, (Host.Outcome.next.inj h).symm⟩)
      · exact .inr (.inr ⟨by simp_all, by simp_all, (Host.Outcome.next.inj h).symm⟩)
  · refine .inr (.inr (.inr (.inr ?_)))
    split at h
    · exact .inl ⟨_, ‹_›, (Host.Outcome.next.inj h).symm⟩
    · exact .inr ⟨_, ‹_›, (Host.Outcome.next.inj h).symm⟩

/-- FINI's steps (R200, R334). -/
theorem execFini_cases (h : execFini s = .next t) :
    (s.seq.phase = .finiDisable ∧
      t = (s.setEnab false).goto (.finiRelease s.tim.timeUs) (s.clockHold false)) ∨
    (∃ t0, s.seq.phase = .finiRelease t0 ∧
      (s.clockHoldOver false t0 = false ∧ t = s ∨
        s.clockHoldOver false t0 = true ∧ t = s.finiRelease.complete .success)) ∨
    (s.seq.state = .uninit ∧ t = s.complete .success) ∨
    (s.seq.state ≠ .uninit ∧ t = s.finiStop.goto .finiDisable .none) := by
  unfold execFini at h
  split at h
  · exact .inl ⟨‹_›, (Host.Outcome.next.inj h).symm⟩
  · refine .inr (.inl ⟨_, ‹_›, ?_⟩)
    split at h
    · exact .inl ⟨by simp_all, (Host.Outcome.next.inj h).symm⟩
    · exact .inr ⟨by simp_all, (Host.Outcome.next.inj h).symm⟩
  · refine .inr (.inr ?_)
    split at h
    · exact .inl ⟨‹_›, (Host.Outcome.next.inj h).symm⟩
    · exact .inr ⟨‹_›, (Host.Outcome.next.inj h).symm⟩

/-- RENDER's steps (R320 to R322). -/
theorem execRender_cases (h : execRender s = .next t) :
    (s.seq.phase = .renderPrior ∧
      (s.seq.state = .submitted ∧ t = s ∨ s.seq.state ≠ .submitted ∧ t = s.goto .renderLatch .latch)) ∨
    (s.seq.phase = .renderLatch ∧
      (s.latchOver = false ∧ t = s ∨
        (∃ code, s.latchOver = true ∧ s.renderClear.renderCheck = some code ∧
          t = s.renderClear.complete code) ∨
        s.latchOver = true ∧ s.renderClear.renderCheck = none ∧ t = s.renderClear.goto .renderEnter .none)) ∨
    (s.seq.phase = .renderEnter ∧
      t = ({ s with seq := { s.seq with state := .encoding } } : State).goto (.renderEncode [] []) .work) ∨
    (∃ g0 g1, s.seq.phase = .renderEncode g0 g1 ∧ t = s.encodeStep g0 g1) ∨
    (s.seq.phase = .renderBuild ∧ t = s.buildPhase.goto .renderArm .work) ∨
    (s.seq.phase = .renderArm ∧ t = s.renderArm.complete .success) ∨
    (s.seq.state = .uninit ∧ t = s.complete .genericFailure) ∨
    (s.seq.state ≠ .uninit ∧ t = s.goto .renderPrior .prior) := by
  unfold execRender at h
  split at h
  · refine .inl ⟨‹_›, ?_⟩
    split at h
    · exact .inl ⟨‹_›, (Host.Outcome.next.inj h).symm⟩
    · exact .inr ⟨‹_›, (Host.Outcome.next.inj h).symm⟩
  · refine .inr (.inl ⟨‹_›, ?_⟩)
    split at h
    · exact .inl ⟨by simp_all, (Host.Outcome.next.inj h).symm⟩
    · have hl : s.latchOver = true := by simp_all
      split at h
      · exact .inr (.inl ⟨_, hl, ‹_›, (Host.Outcome.next.inj h).symm⟩)
      · exact .inr (.inr ⟨hl, ‹_›, (Host.Outcome.next.inj h).symm⟩)
  · exact .inr (.inr (.inl ⟨‹_›, (Host.Outcome.next.inj h).symm⟩))
  · exact .inr (.inr (.inr (.inl ⟨_, _, ‹_›, (Host.Outcome.next.inj h).symm⟩)))
  · exact .inr (.inr (.inr (.inr (.inl ⟨‹_›, (Host.Outcome.next.inj h).symm⟩))))
  · exact .inr (.inr (.inr (.inr (.inr (.inl ⟨‹_›, (Host.Outcome.next.inj h).symm⟩)))))
  · refine .inr (.inr (.inr (.inr (.inr (.inr ?_)))))
    split at h
    · exact .inl ⟨‹_›, (Host.Outcome.next.inj h).symm⟩
    · exact .inr ⟨‹_›, (Host.Outcome.next.inj h).symm⟩

/-- The encoder's steps (R225). -/
theorem encodeStep_cases (g0 g1 : List Word) :
    (g0.length < s.snap.ch0.count.toNat ∧ s.encodeStep g0 g1 =
      (s.drew 1).goto (.renderEncode (g0 ++ [s.readGroup .ch0 g0.length]) g1) .work) ∨
    (s.snap.ch0.count.toNat ≤ g0.length ∧ g1.length < s.snap.ch1.count.toNat ∧ s.encodeStep g0 g1 =
      (s.drew 1).goto (.renderEncode g0 (g1 ++ [s.readGroup .ch1 g1.length])) .work) ∨
    (s.snap.ch0.count.toNat ≤ g0.length ∧ s.snap.ch1.count.toNat ≤ g1.length ∧ s.encodeStep g0 g1 =
      (s.writeFrame { ch0 := g0, ch1 := g1 }).goto .renderBuild .work) := by
  unfold encodeStep
  split
  · exact .inl ⟨‹_›, rfl⟩
  · split
    · exact .inr (.inl ⟨by omega, ‹_›, rfl⟩)
    · exact .inr (.inr ⟨by omega, by omega, rfl⟩)

/-- The build phase (R254). -/
theorem buildPhase_cases :
    (s.chainKept = true ∧ s.buildPhase = s) ∨
    (s.chainKept = false ∧ s.buildPhase = s.buildChain s.lat.mode (geometry s.lat.mode s.lat.freqL s.snap)) := by
  unfold buildPhase
  split
  · exact .inl ⟨‹_›, rfl⟩
  · exact .inr ⟨by simp_all, rfl⟩

/-- WAIT's steps (R331). -/
theorem execWait_cases (h : execWait s = .next t) :
    (∃ t0, s.seq.phase = .waitHold t0 ∧
      (s.waitHoldOver t0 = false ∧ t = s ∨
        s.waitHoldOver t0 = true ∧ (s.seq.state = .submitted ∨ s.seq.xferErr = true) ∧ t = s.complete .dma ∨
        s.waitHoldOver t0 = true ∧ s.seq.state ≠ .submitted ∧ s.seq.xferErr = false ∧
          t = s.complete .success)) ∨
    (s.seq.state = .uninit ∧ t = s.complete .genericFailure) ∨
    (s.seq.state = .idle ∧ t = s.complete .success) ∨
    (s.seq.state ≠ .uninit ∧ s.seq.state ≠ .idle ∧ t = s.goto (.waitHold s.tim.timeUs) .waitCmd) := by
  unfold execWait at h
  split at h
  · refine .inl ⟨_, ‹_›, ?_⟩
    split at h
    · exact .inl ⟨by simp_all, (Host.Outcome.next.inj h).symm⟩
    · split at h
      · exact .inr (.inl ⟨by simp_all, ‹_›, (Host.Outcome.next.inj h).symm⟩)
      · exact .inr (.inr ⟨by simp_all, by simp_all, by simp_all, (Host.Outcome.next.inj h).symm⟩)
  · refine .inr ?_
    split at h
    · exact .inl ⟨‹_›, (Host.Outcome.next.inj h).symm⟩
    · split at h
      · exact .inr (.inl ⟨‹_›, (Host.Outcome.next.inj h).symm⟩)
      · exact .inr (.inr ⟨‹_›, ‹_›, (Host.Outcome.next.inj h).symm⟩)

/-- SET_GAMMA's step (R330). -/
theorem execSetGamma_cases {ch : Chan} (h : execSetGamma ch s = .next t) :
    (s.regs.gammaFactor = 0#32 ∧ t = s.complete .genericFailure) ∨
    (s.regs.gammaFactor ≠ 0#32 ∧ t = (s.writeGamma ch (gammaGen s.regs.gammaFactor)).complete .success) := by
  unfold execSetGamma at h
  split at h
  · exact .inl ⟨‹_›, (Host.Outcome.next.inj h).symm⟩
  · exact .inr ⟨‹_›, (Host.Outcome.next.inj h).symm⟩

/-! ## The control block -/

/-- The load after a fetch (R264). -/
theorem loadBlock_cases (b : CtrlBlock) :
    (b.wellFormed = false ∧ s.loadBlock b = s.raiseDmaError .cbFormat) ∨
    (b.wellFormed = true ∧ b.txfrLen.field 0 2 ≠ 0#2 ∧ s.loadBlock b = s.raiseDmaError .lenAlign) ∨
    (b.wellFormed = true ∧ b.txfrLen.field 0 2 = 0#2 ∧ s.loadBlock b =
      { s with dma := { s.dma with
          ti := tiWord b.ti, sourceAd := b.sourceAd, destAd := b.destAd, txfrLen := b.txfrLen,
          nextConbk := b.nextConbk, loaded := true } }) := by
  unfold loadBlock
  split
  · exact .inl ⟨by simp_all, rfl⟩
  · split
    · exact .inr (.inl ⟨by simp_all, by simp_all, rfl⟩)
    · exact .inr (.inr ⟨by simp_all, by simp_all, rfl⟩)

/-- The move step (R271). -/
theorem moveWord_cases :
    (srcOk s.cfg s.dma.sourceAd = false ∧ s.moveWord = s.raiseDmaError .srcBus) ∨
    (srcOk s.cfg s.dma.sourceAd = true ∧ destOk s.cfg s.dma.destAd = false ∧
      s.moveWord = s.raiseDmaError .destBus) ∨
    (srcOk s.cfg s.dma.sourceAd = true ∧ destOk s.cfg s.dma.destAd = true ∧ s.dma.destAd = fifoData ∧
      s.cfg.fifoDepth ≤ s.ser.fifo.length ∧ s.moveWord = s.raiseDmaError .fifoOverflow) ∨
    (srcOk s.cfg s.dma.sourceAd = true ∧ destOk s.cfg s.dma.destAd = true ∧ s.dma.destAd = fifoData ∧
      s.ser.fifo.length < s.cfg.fifoDepth ∧
      s.moveWord = { (s.push (s.sourceWord s.dma.sourceAd)).drew 1 with dma := s.dma.advance }) ∨
    (srcOk s.cfg s.dma.sourceAd = true ∧ destOk s.cfg s.dma.destAd = true ∧ s.dma.destAd ≠ fifoData ∧
      s.moveWord =
        { s.drew 1 with
          ram := { s.ram with
            sym := s.ram.sym.setWord (s.dma.destAd.toNat / 4) (s.sourceWord s.dma.sourceAd) }
          dma := s.dma.advance }) := by
  unfold moveWord
  dsimp only
  split
  · exact .inl ⟨by simp_all, rfl⟩
  · split
    · exact .inr (.inl ⟨by simp_all, by simp_all, rfl⟩)
    · split
      · rename_i h
        exact .inr (.inr (.inl ⟨by simp_all, by simp_all, h.1, h.2, rfl⟩))
      · rename_i h
        unfold writeDest
        split
        · exact .inr (.inr (.inr (.inl ⟨by simp_all, by simp_all, ‹_›, by simp_all, rfl⟩)))
        · exact .inr (.inr (.inr (.inr ⟨by simp_all, by simp_all, ‹_›, rfl⟩)))

/-- The finish step (R272, R273). -/
theorem finishBlock_cases :
    (s.dma.nextConbk = 0#32 ∧ s.finishBlock =
      { s with dma := { s.dma with
          int := s.dma.int || (tiFields s.dma.ti).inten, loaded := false, ended := true, active := false } }) ∨
    (s.dma.nextConbk ≠ 0#32 ∧ s.finishBlock =
      { s with dma := { s.dma with
          int := s.dma.int || (tiFields s.dma.ti).inten, loaded := false, conblkAd := s.dma.nextConbk } }) := by
  unfold finishBlock
  dsimp only
  split
  · exact .inl ⟨‹_›, rfl⟩
  · exact .inr ⟨‹_›, rfl⟩

/-- The step of a loaded block (R260). -/
theorem runLoaded_cases :
    (s.dma.txfrLen = 0#32 ∧ s.runLoaded = s.finishBlock) ∨
    (s.dma.txfrLen ≠ 0#32 ∧ s.moveReady = true ∧ s.runLoaded = s.moveWord) ∨
    (s.dma.txfrLen ≠ 0#32 ∧ s.moveReady = false ∧ s.runLoaded = s) := by
  unfold runLoaded
  split
  · exact .inl ⟨‹_›, rfl⟩
  · split
    · exact .inr (.inl ⟨‹_›, ‹_›, rfl⟩)
    · exact .inr (.inr ⟨‹_›, by simp_all, rfl⟩)

/-- A control block's step. -/
theorem execCb_cases {b : CtrlBlock} (h : execCb b s = .next t) :
    (s.dma.loaded = true ∧ t = s.runLoaded) ∨ (s.dma.loaded = false ∧ t = s.loadBlock b) := by
  unfold execCb at h
  split at h
  · exact .inl ⟨‹_›, (Host.Outcome.next.inj h).symm⟩
  · exact .inr ⟨by simp_all, (Host.Outcome.next.inj h).symm⟩

/-! ## The turns -/

/-- What a fetch reads is a control block. -/
theorem fetch_ok {i : Instr} (h : s.fetch = .ok i) : ∃ b, i = .cb b := by
  unfold fetch at h
  split at h
  · cases h
  · split at h
    · rename_i hb
      unfold fetchBlock decodeBlock at hb
      split at hb
      · cases hb
        cases h
        exact ⟨_, rfl⟩
      · cases hb
    all_goals cases h

/-- No command word decodes to a control block. -/
theorem decodeCmd_ne_cb (w : Word) (b : CtrlBlock) : decodeCmd w ≠ .cb b := by
  unfold decodeCmd
  repeat' split
  all_goals exact fun h => nomatch h

/-- The completion step (R276). -/
theorem completionStep_cases :
    (s.completionReady = true ∧ s.completionStep = { s with seq := { s.seq with state := .complete } }) ∨
    (s.completionReady = false ∧ s.completionStep = s) := by
  unfold completionStep
  split
  · exact .inl ⟨‹_›, rfl⟩
  · exact .inr ⟨by simp_all, rfl⟩

/-- The scheduler's turn (R260). -/
theorem schedulerTurn_cases (h : schedulerTurn s = .next t) :
    (s.dma.active = false ∧ t = s.completionStep) ∨
    (s.dma.active = true ∧ s.dma.loaded = true ∧ t = s.runLoaded) ∨
    (s.dma.active = true ∧ s.dma.loaded = false ∧ ∃ b, s.fetch = .ok (.cb b) ∧ t = s.fetched.loadBlock b) ∨
    (s.dma.active = true ∧ s.dma.loaded = false ∧ ∃ c, s.fetch = .error c ∧
      t = s.fetched.raiseDmaError c) := by
  unfold schedulerTurn at h
  split at h
  · exact .inl ⟨by simp_all, (Host.Outcome.next.inj h).symm⟩
  · have ha : s.dma.active = true := by simp_all
    split at h
    · rename_i hl
      rcases execCb_cases (by simpa only [exec] using h) with ⟨-, ht⟩ | ⟨hn, -⟩
      · exact .inr (.inl ⟨ha, hl, ht⟩)
      · simp_all
    · have hl : s.dma.loaded = false := by simp_all
      unfold fetchTurn at h
      split at h
      · rename_i i hf
        obtain ⟨b, rfl⟩ := fetch_ok hf
        rcases execCb_cases (by simpa only [exec] using h) with ⟨hn, -⟩ | ⟨-, ht⟩
        · simp_all [fetched]
        · exact .inr (.inr (.inl ⟨ha, hl, b, hf, ht⟩))
      · exact .inr (.inr (.inr ⟨ha, hl, _, ‹_›, (Host.Outcome.next.inj h).symm⟩))

/-- The sequencer's turn (R300). -/
theorem sequencerTurn_cases (h : sequencerTurn s = .next t) :
    (s.seq.cmdBusy = true ∧ exec (decodeCmd s.seq.cmd) s = .next t) ∨ (s.seq.cmdBusy = false ∧ t = s) := by
  unfold sequencerTurn at h
  split at h
  · exact .inl ⟨‹_›, h⟩
  · exact .inr ⟨by simp_all, (Host.Outcome.next.inj h).symm⟩

/-- The serializer's tick (R282, R283). -/
theorem tick_cases :
    (s.ticks = false ∧ s.tick = s) ∨
    (s.ticks = true ∧ s.starved = true ∧ s.cfg.transferErrors = .anytime ∧
      s.tick = s.raiseDmaError .underrun) ∨
    (s.ticks = true ∧ s.starved = true ∧ s.cfg.transferErrors = .never ∧ s.tick = s) ∨
    (s.ticks = true ∧ s.starved = false ∧ s.tick = s.shiftStep) := by
  unfold tick
  split
  · exact .inl ⟨by simp_all, rfl⟩
  · have ht : s.ticks = true := by simp_all
    split
    · split
      · exact .inr (.inl ⟨ht, ‹_›, ‹_›, rfl⟩)
      · exact .inr (.inr (.inl ⟨ht, ‹_›, ‹_›, rfl⟩))
    · exact .inr (.inr (.inr ⟨ht, by simp_all, rfl⟩))

/-- A host access that the port takes (R100). -/
theorem hostAccess_cases {offset : BitVec 20} {bytes : Nat} {op : HostOp}
    (h : s.hostAccess offset bytes op = .next t) :
    accessOk offset bytes = true ∧
      (op = .read ∧ t = s.hostRead (hostTarget s.cfg offset) ∨
        ∃ v, op = .write v ∧ t = s.hostWrite (hostTarget s.cfg offset) v) := by
  unfold hostAccess at h
  split at h
  · cases h
  · refine ⟨by simp_all, ?_⟩
    split at h
    · exact .inl ⟨rfl, (Host.Outcome.next.inj h).symm⟩
    · exact .inr ⟨_, rfl, (Host.Outcome.next.inj h).symm⟩

/-- An access at a platform address (R101). -/
theorem platformAccess_cases {address bytes : Nat} {op : HostOp}
    (h : s.platformAccess address bytes op = .next t) :
    (∃ offset, platformOffset s.cfg address = some offset ∧ s.hostAccess offset bytes op = .next t) ∨
    (platformOffset s.cfg address = none ∧ t = s) := by
  unfold platformAccess at h
  split at h
  · exact .inl ⟨_, ‹_›, h⟩
  · exact .inr ⟨‹_›, (Host.Outcome.next.inj h).symm⟩

/-! ## The step -/

/-- Taking the next event changes nothing but the model's own fields. -/
theorem nextEvent_snd : ∃ es n, s.nextEvent.2 = { s with env := { s.env with events := es, draws := n } } := by
  unfold nextEvent
  split
  · exact ⟨_, _, rfl⟩
  · exact ⟨_, _, rfl⟩

/-- A step is the turn its event gives, at the state without the event. -/
theorem step_cases (h : step s = .next t) :
    ∃ es n, s.nextEvent.2 = { s with env := { s.env with events := es, draws := n } } ∧
      (s.env.rstN = true ∧ turn s.nextEvent.1 { s with env := { s.env with events := es, draws := n } } = .next t ∨
        s.env.rstN = false ∧
          turnInReset s.nextEvent.1 { s with env := { s.env with events := es, draws := n } } = .next t) := by
  obtain ⟨es, n, hn⟩ := nextEvent_snd (s := s)
  refine ⟨es, n, hn, ?_⟩
  unfold step at h
  dsimp only at h
  rw [hn] at h
  split at h
  · exact .inl ⟨‹_›, h⟩
  · exact .inr ⟨by simp_all, h⟩

end Sys2Proof.Machine
end

