-- ==== Sys2Proof/Laws/Turns.lean ====
section
/-! SUPPORT. A step whose event the state lists, a run's first step, and the host's accesses by their target. -/

namespace Sys2Proof.Machine

variable {s t : State} {e : Event} {es : List Event}

/-- Out of reset, a step is the turn of the oldest listed event, at the state without it. -/
theorem step_of_event (hr : s.env.rstN = true) (he : s.env.events = e :: es) :
    step s = turn e { s with env := { s.env with events := es } } := by
  simp only [step, State.nextEvent, he]
  rw [if_pos hr]

/-- In reset, likewise. -/
theorem step_in_reset (hr : s.env.rstN = false) (he : s.env.events = e :: es) :
    step s = turnInReset e { s with env := { s.env with events := es } } := by
  simp only [step, State.nextEvent, he]
  rw [if_neg (by simp [hr])]

/-- Out of reset, a step is the turn of the next event, listed or free. -/
theorem step_turn (hr : s.env.rstN = true) : step s = turn s.nextEvent.1 s.nextEvent.2 := by
  unfold step
  rcases h : s.env.events with _ | ⟨e, es⟩ <;> simp [State.nextEvent, h, State.drew, hr]

/-- A run of `k + 1` steps whose first answers `t`. -/
theorem run_succ {k : Nat} (h : step s = .next t) : Sys2Proof.core.run (k + 1) s = Sys2Proof.core.run k t := by
  have h' : Sys2Proof.core.step s = .next t := h
  simp only [Host.Core.run]
  rw [h']

/-- A read at a multiple of 4. -/
theorem hostAccess_read {offset : BitVec 20} (h : offset.toNat % 4 = 0) :
    s.hostAccess offset 4 .read = .next (s.hostRead (hostTarget s.cfg offset)) := by
  simp [State.hostAccess, accessOk, h]

/-- A write at a multiple of 4. -/
theorem hostAccess_write {offset : BitVec 20} {v : Word} (h : offset.toNat % 4 = 0) :
    s.hostAccess offset 4 (.write v) = .next (s.hostWrite (hostTarget s.cfg offset) v) := by
  simp [State.hostAccess, accessOk, h]

/-- Every register is found at its offset. -/
theorem hostTarget_reg (c : Config) (r : Reg) : hostTarget c (BitVec.ofNat 20 r.offset) = .reg r := by
  cases r with
  | gpio n | invert n | count n | layout n | brightness n | shifts n | latched n => cases n <;> rfl
  | _ => rfl

end Sys2Proof.Machine
end

