-- ==== Sys2Proof/Laws/Runs.lean ====
section
/-! SUPPORT. Runs: what no step changes, what the steps that are not the sequencer's leave of a running command, and
what fairness gives (log entry 16). -/

namespace Sys2Proof.Machine

open State

variable {s t : State}

/-! ## The parameters -/

/-- No instruction changes the parameters or `rst_n`. -/
theorem exec_fixed {i : Instr} (h : exec i s = .next t) : t.cfg = s.cfg ∧ t.env.rstN = s.env.rstN := by
  cases i <;> simp only [exec] at h
  · rcases execInit_cases h with ⟨_, _, rfl⟩ | ⟨_, _, _, ⟨_, rfl⟩ | ⟨_, _, rfl⟩ | ⟨_, _, rfl⟩⟩ | ⟨_, _, rfl⟩ |
      ⟨_, _, _, ⟨_, rfl⟩ | ⟨_, _, rfl⟩ | ⟨_, _, rfl⟩⟩ | ⟨_, _, rfl⟩ | ⟨_, _, rfl⟩ <;> exact ⟨rfl, rfl⟩
  · rcases execFini_cases h with ⟨_, rfl⟩ | ⟨_, _, ⟨_, rfl⟩ | ⟨_, rfl⟩⟩ | ⟨_, rfl⟩ | ⟨_, rfl⟩ <;> exact ⟨rfl, rfl⟩
  · rcases execRender_cases h with ⟨_, ⟨_, rfl⟩ | ⟨_, rfl⟩⟩ | ⟨_, ⟨_, rfl⟩ | ⟨_, _, _, rfl⟩ | ⟨_, _, rfl⟩⟩ | ⟨_, rfl⟩ |
      ⟨g0, g1, _, rfl⟩ | ⟨_, rfl⟩ | ⟨_, rfl⟩ | ⟨_, rfl⟩ | ⟨_, rfl⟩
    all_goals try exact ⟨rfl, rfl⟩
    · rcases encodeStep_cases (s := s) g0 g1 with ⟨_, k⟩ | ⟨_, _, k⟩ | ⟨_, _, k⟩ <;> rw [k] <;> exact ⟨rfl, rfl⟩
    · rcases buildPhase_cases (s := s) with ⟨_, k⟩ | ⟨_, k⟩ <;> rw [k] <;> exact ⟨rfl, rfl⟩
  · rcases execWait_cases h with ⟨_, _, ⟨_, rfl⟩ | ⟨_, _, rfl⟩ | ⟨_, _, _, rfl⟩⟩ | ⟨_, rfl⟩ | ⟨_, rfl⟩ | ⟨_, _, rfl⟩ <;>
      exact ⟨rfl, rfl⟩
  · rcases execSetGamma_cases h with ⟨_, rfl⟩ | ⟨_, rfl⟩ <;> exact ⟨rfl, rfl⟩
  · cases Host.Outcome.next.inj h; exact ⟨rfl, rfl⟩
  · rename_i b
    rcases execCb_cases h with ⟨_, rfl⟩ | ⟨_, rfl⟩
    · rcases runLoaded_cases (s := s) with ⟨_, k⟩ | ⟨_, _, k⟩ | ⟨_, _, k⟩ <;> rw [k]
      · rcases finishBlock_cases (s := s) with ⟨_, k⟩ | ⟨_, k⟩ <;> rw [k] <;> exact ⟨rfl, rfl⟩
      · rcases moveWord_cases (s := s) with ⟨_, k⟩ | ⟨_, _, k⟩ | ⟨_, _, _, _, k⟩ | ⟨_, _, _, _, k⟩ | ⟨_, _, _, k⟩ <;>
          rw [k] <;> exact ⟨rfl, rfl⟩
      · exact ⟨rfl, rfl⟩
    · rcases loadBlock_cases (s := s) b with ⟨_, k⟩ | ⟨_, _, k⟩ | ⟨_, _, k⟩ <;> rw [k] <;> exact ⟨rfl, rfl⟩

/-! ## The running command

Only the sequencer's turn takes a running command further. -/

/-- A running command, the clock engine and the parameters are as they were. -/
structure SameCommand (s t : State) : Prop where
  phase : t.seq.phase = s.seq.phase
  cmd   : t.seq.cmd = s.seq.cmd
  busy  : t.seq.cmdBusy = s.seq.cmdBusy
  clk   : t.clk = s.clk
  cfg   : t.cfg = s.cfg

/-- A host access leaves a running command (R301) and the clock manager's bit. -/
theorem hostAccess_sameCommand {offset : BitVec 20} {bytes : Nat} {op : HostOp} (hb : s.seq.cmdBusy = true)
    (h : s.hostAccess offset bytes op = .next t) : SameCommand s t ∧ t.env.busy = s.env.busy := by
  rcases hostAccess_cases h with ⟨_, ⟨_, rfl⟩ | ⟨v, _, rfl⟩⟩
  · rcases hostTarget s.cfg offset with r | _ | _ | _ | _ | _
    · cases r <;> exact ⟨⟨rfl, rfl, rfl, rfl, rfl⟩, rfl⟩
    all_goals exact ⟨⟨rfl, rfl, rfl, rfl, rfl⟩, rfl⟩
  · rcases hostTarget s.cfg offset with r | _ | _ | _ | _ | _
    · cases r <;> try exact ⟨⟨rfl, rfl, rfl, rfl, rfl⟩, rfl⟩
      simp only [hostWrite, writeTarget, writeReg, Seq.writeCmd, hb, if_true]
      exact ⟨⟨rfl, rfl, hb.symm, rfl, rfl⟩, trivial⟩
    all_goals exact ⟨⟨rfl, rfl, rfl, rfl, rfl⟩, rfl⟩

/-- The scheduler's turn leaves a running command and the clock manager's bit. -/
theorem schedulerTurn_sameCommand (h : schedulerTurn s = .next t) : SameCommand s t ∧ t.env.busy = s.env.busy := by
  rcases schedulerTurn_cases h with ⟨_, rfl⟩ | ⟨_, _, rfl⟩ | ⟨_, _, b, _, rfl⟩ | ⟨_, _, _, _, rfl⟩
  · rcases completionStep_cases (s := s) with ⟨_, k⟩ | ⟨_, k⟩ <;> rw [k] <;> exact ⟨⟨rfl, rfl, rfl, rfl, rfl⟩, rfl⟩
  · rcases runLoaded_cases (s := s) with ⟨_, k⟩ | ⟨_, _, k⟩ | ⟨_, _, k⟩ <;> rw [k]
    · rcases finishBlock_cases (s := s) with ⟨_, k⟩ | ⟨_, k⟩ <;> rw [k] <;> exact ⟨⟨rfl, rfl, rfl, rfl, rfl⟩, rfl⟩
    · rcases moveWord_cases (s := s) with ⟨_, k⟩ | ⟨_, _, k⟩ | ⟨_, _, _, _, k⟩ | ⟨_, _, _, _, k⟩ | ⟨_, _, _, k⟩ <;>
        rw [k] <;> exact ⟨⟨rfl, rfl, rfl, rfl, rfl⟩, rfl⟩
    · exact ⟨⟨rfl, rfl, rfl, rfl, rfl⟩, rfl⟩
  · rcases loadBlock_cases (s := s.fetched) b with ⟨_, k⟩ | ⟨_, _, k⟩ | ⟨_, _, k⟩ <;> rw [k] <;>
      exact ⟨⟨rfl, rfl, rfl, rfl, rfl⟩, rfl⟩
  · exact ⟨⟨rfl, rfl, rfl, rfl, rfl⟩, rfl⟩

/-- The five agents that the events name. -/
def isAgent : Event → Bool
  | .sequencer => true
  | .scheduler => true
  | .serializer => true
  | .clockManager => true
  | .timer => true
  | .host _ _ _ => false
  | .platform _ _ _ => false
  | .resetLow => false
  | .resetHigh => false
  | .setProfileId _ => false

/-- A turn of an agent but the sequencer, and any such event while a command runs, leaves the command as it is; the clock
manager's bit stays or becomes `ENAB`. -/
theorem turn_sameCommand {e : Event} (hb : s.seq.cmdBusy = true ∨ isAgent e = true) (he : e ≠ .sequencer)
    (h : turn e s = .next t) (hr : t.env.rstN = true) : SameCommand s t ∧ (t.env.busy = s.env.busy ∨ t.env.busy = s.clk.enab) := by
  have same : SameCommand s s := ⟨rfl, rfl, rfl, rfl, rfl⟩
  have stays {t : State} (k : SameCommand s t ∧ t.env.busy = s.env.busy) :
      SameCommand s t ∧ (t.env.busy = s.env.busy ∨ t.env.busy = s.clk.enab) := ⟨k.1, .inl k.2⟩
  cases e <;> simp only [turn] at h
  · exact stays (hostAccess_sameCommand (hb.resolve_right nofun) h)
  · rcases platformAccess_cases h with ⟨_, _, k⟩ | ⟨_, rfl⟩
    · exact stays (hostAccess_sameCommand (hb.resolve_right nofun) k)
    · exact stays ⟨same, rfl⟩
  · exact absurd rfl he
  · exact stays (schedulerTurn_sameCommand h)
  · obtain rfl := Host.Outcome.next.inj h
    rcases tick_cases (s := s) with ⟨_, k⟩ | ⟨_, _, _, k⟩ | ⟨_, _, _, k⟩ | ⟨_, _, k⟩ <;> rw [k] <;>
      exact stays ⟨⟨rfl, rfl, rfl, rfl, rfl⟩, rfl⟩
  · obtain rfl := Host.Outcome.next.inj h; exact ⟨⟨rfl, rfl, rfl, rfl, rfl⟩, .inr rfl⟩
  · obtain rfl := Host.Outcome.next.inj h; exact stays ⟨⟨rfl, rfl, rfl, rfl, rfl⟩, rfl⟩
  · obtain rfl := Host.Outcome.next.inj h; cases hr
  · obtain rfl := Host.Outcome.next.inj h; exact stays ⟨same, rfl⟩
  · obtain rfl := Host.Outcome.next.inj h; exact stays ⟨same, rfl⟩

/-! ## The step of a run -/

/-- Out of reset, a step of a run is the turn of its event. -/
theorem step_given {e : Event} (h : s.env.rstN = true) : step (s.given e) = turn e s := by
  unfold step State.given nextEvent
  dsimp only
  rw [if_pos h]

/-- An agent's turn answers a next state. -/
theorem agentTurn_answers {e : Event} (he : isAgent e = true) : ∃ t, turn e s = .next t := by
  have all (i : Instr) (s : State) : ∃ t, exec i s = .next t := by
    cases h : exec i s with
    | next t => exact ⟨t, rfl⟩
    | fault f => cases f
    | refused c =>
      cases i <;> simp only [exec, execInit, execFini, execRender, execWait, execSetGamma, execCmdMalformed, execCb] at h
      all_goals repeat' split at h
      all_goals cases h
  cases e <;> simp only [isAgent, reduceCtorEq] at he <;> simp only [turn]
  · unfold sequencerTurn
    split
    · exact all _ _
    · exact ⟨_, rfl⟩
  · unfold schedulerTurn fetchTurn
    repeat' split
    all_goals first | exact ⟨_, rfl⟩ | exact all _ _
  all_goals exact ⟨_, rfl⟩

/-- An agent's turn changes neither the parameters nor `rst_n`. -/
theorem agentTurn_fixed {e : Event} (he : isAgent e = true) (h : turn e s = .next t) :
    t.cfg = s.cfg ∧ t.env.rstN = s.env.rstN := by
  cases e <;> simp only [isAgent, reduceCtorEq] at he <;> simp only [turn] at h
  · rcases sequencerTurn_cases h with ⟨_, k⟩ | ⟨_, rfl⟩
    · exact exec_fixed k
    · exact ⟨rfl, rfl⟩
  · unfold schedulerTurn at h
    split at h
    · obtain rfl := Host.Outcome.next.inj h
      rcases completionStep_cases (s := s) with ⟨_, k⟩ | ⟨_, k⟩ <;> rw [k] <;> exact ⟨rfl, rfl⟩
    · split at h
      · exact exec_fixed h
      · unfold fetchTurn at h
        split at h
        · exact exec_fixed (s := s.fetched) h
        · obtain rfl := Host.Outcome.next.inj h; exact ⟨rfl, rfl⟩
  · obtain rfl := Host.Outcome.next.inj h
    rcases tick_cases (s := s) with ⟨_, k⟩ | ⟨_, _, _, k⟩ | ⟨_, _, _, k⟩ | ⟨_, _, k⟩ <;> rw [k] <;> exact ⟨rfl, rfl⟩
  · obtain rfl := Host.Outcome.next.inj h; exact ⟨rfl, rfl⟩
  · obtain rfl := Host.Outcome.next.inj h; exact ⟨rfl, rfl⟩

/-! ## What fairness gives -/

variable {r : Nat → State} {ev : Nat → Event}

/-- In a situation in which the sequencer has an enabled step and that only the sequencer ends, its turn comes. -/
theorem FairRun.sequencer_comes (F : FairRun r ev) (P : State → Prop) {a : Nat} (hP : P (r a))
    (keeps : ∀ m, a ≤ m → P (r m) → ev m ≠ .sequencer → P (r (m + 1)))
    (enabled : ∀ m, a ≤ m → P (r m) → (r m).sequencerEnabled) :
    ∃ m, a ≤ m ∧ ev m = .sequencer ∧ ∀ k, a ≤ k → k ≤ m → P (r k) := by
  by_cases hf : ∃ m, a ≤ m ∧ ev m = .sequencer
  · classical
    refine ⟨Nat.find hf, (Nat.find_spec hf).1, (Nat.find_spec hf).2, fun k hk hkm => ?_⟩
    induction k, hk using Nat.le_induction with
    | base => exact hP
    | succ k hk ih => exact keeps k hk (ih (by omega)) fun q => Nat.find_min hf (m := k) (by omega) ⟨hk, q⟩
  · have all : ∀ k, a ≤ k → P (r k) := by
      intro k hk
      induction k, hk using Nat.le_induction with
      | base => exact hP
      | succ k hk ih => exact keeps k hk ih fun q => hf ⟨k, hk, q⟩
    obtain ⟨m, hm, he⟩ := F.sequencer a fun m hm => enabled m hm (all m hm)
    exact absurd ⟨m, hm, he⟩ hf

/-- Time passes: from any step on, more microseconds pass than any number. -/
theorem FairRun.microseconds_unbounded (F : FairRun r ev) (a b : Nat) : ∃ k, a ≤ k ∧ b ≤ microseconds ev a k := by
  induction b with
  | zero => exact ⟨a, le_refl a, Nat.zero_le _⟩
  | succ b ih =>
    obtain ⟨k, hk, hb⟩ := ih
    obtain ⟨m, hm, he⟩ := F.timer k
    refine ⟨m + 1, by omega, ?_⟩
    unfold microseconds at *
    rw [show m + 1 - a = (k - a) + ((m - k) + 1) by omega, List.range_add, List.countP_append]
    have one : 0 < ((List.range (m - k + 1)).map (k - a + ·)).countP fun i => decide (ev (a + i) = .timer) := by
      rw [List.countP_pos_iff]
      exact ⟨k - a + (m - k), List.mem_map.mpr ⟨m - k, by simp, rfl⟩, by
        rw [show a + (k - a + (m - k)) = m by omega, he]; rfl⟩
    omega

/-- With `CLOCK_MAY_FAIL = false`, a situation in which `ENAB` is `v` and that only `BUSY = v` ends comes to that. -/
theorem FairRun.clock_answers (F : FairRun r ev) (P : State → Prop) (v : Bool) {a : Nat} (hP : P (r a))
    (never : (r a).cfg.clockMayFail = false)
    (enab : ∀ m, a ≤ m → P (r m) → (r m).env.rstN = true ∧ (r m).clk.enab = v)
    (keeps : ∀ m, a ≤ m → P (r m) → (r m).env.busy ≠ v → P (r (m + 1))) :
    ∃ m, a ≤ m ∧ (∀ k, a ≤ k → k ≤ m → P (r k)) ∧ (r m).env.busy = v := by
  by_cases hf : ∃ m, a ≤ m ∧ (r m).env.busy = v
  · classical
    refine ⟨Nat.find hf, (Nat.find_spec hf).1, fun k hk hkm => ?_, (Nat.find_spec hf).2⟩
    induction k, hk using Nat.le_induction with
    | base => exact hP
    | succ k hk ih => exact keeps k hk (ih (by omega)) fun q => Nat.find_min hf (m := k) (by omega) ⟨hk, q⟩
  · have nb : ∀ k, a ≤ k → (r k).env.busy ≠ v := fun k hk q => hf ⟨k, hk, q⟩
    have all : ∀ k, a ≤ k → P (r k) := by
      intro k hk
      induction k, hk using Nat.le_induction with
      | base => exact hP
      | succ k hk ih => exact keeps k hk ih (nb k hk)
    obtain ⟨k, hk, hb⟩ := F.microseconds_unbounded a (r a).cfg.clkTimeoutUs
    have := F.clockManager a k hk never fun m hm _ => by
      obtain ⟨h1, h2⟩ := enab m hm (all m hm)
      exact ⟨h1, by rw [h2, (enab a (le_refl a) hP).2], by rw [h2]; exact nb m hm⟩
    omega

end Sys2Proof.Machine
end

