-- ==== Sys2Proof/Laws/Wire.lean ====
section
/-! SUPPORT. The lists of sub-bits the wire carries: a word's sub-bits one by one, a lane's words one by one, and the
stream of a whole frame. `spec/42_dma_scheduler.md` rules R281, R282, R287. -/

namespace Sys2Proof.Machine

/-- A word has 32 sub-bits. -/
@[simp] theorem length_subBitsOf (w : Word) : (subBitsOf w).length = 32 := by simp [subBitsOf]

/-- The first of the sub-bits left is bit 31; the rest are those of the shifted word (R281). -/
theorem take_succ_subBitsOf (w : Word) (k : Nat) (hk : k < 32) :
    (subBitsOf w).take (k + 1) = w.getLsbD 31 :: (subBitsOf (w <<< 1)).take k := by
  apply List.ext_getElem?
  intro i
  unfold subBitsOf
  rcases i with _ | i
  · simp
  · simp only [List.getElem?_cons_succ, List.getElem?_take, List.getElem?_map]
    by_cases h : i < k
    · rw [if_pos h, if_pos (by omega), List.getElem?_range (by omega : i + 1 < 32),
        List.getElem?_range (by omega : i < 32)]
      simp only [Option.map_some, BitVec.getLsbD_shiftLeft]
      rw [decide_eq_true (by omega : 31 - i < 32), decide_eq_false (by omega : ¬ 31 - i < 1),
        show 31 - i - 1 = 31 - (i + 1) by omega]
      simp
    · rw [if_neg h, if_neg (by omega)]

/-- The sub-bits of a lane's word are its part of the lane's stream (R221). -/
theorem subBitsOf_laneWord (sn : Snap) (groups : List Word) (k : Nat) :
    subBitsOf (laneWord sn groups k) = (List.range 32).map (fun m => laneSubBit sn groups (32 * k + m)) :=
  List.map_congr_left fun m hm =>
    wordOfSubBits_getLsbD (fun m => laneSubBit sn groups (32 * k + m)) m (List.mem_range.mp hm)

/-- The sub-bits of a lane's first words are the start of the lane's stream. -/
theorem flatMap_laneWord (sn : Snap) (groups : List Word) (n : Nat) :
    ((List.range n).map (laneWord sn groups)).flatMap subBitsOf =
      (List.range (32 * n)).map (laneSubBit sn groups) := by
  induction n with
  | zero => rfl
  | succ n ih =>
    rw [List.range_succ, List.map_append, List.flatMap_append, ih, show 32 * (n + 1) = 32 * n + 32 by ring,
      List.range_add, List.map_append]
    simp [subBitsOf_laneWord]

/-- Element `k` of every other element. -/
theorem getElem?_everyOther {α : Type} : ∀ (xs : List α) (k : Nat), (everyOther xs)[k]? = xs[2 * k]?
  | [], k => by simp [everyOther]
  | [a], k => by cases k <;> simp [everyOther]
  | a :: b :: as, k => by
    cases k with
    | zero => simp [everyOther]
    | succ k =>
      simp only [everyOther, List.getElem?_cons_succ, getElem?_everyOther as k,
        show 2 * (k + 1) = 2 * k + 1 + 1 by ring]

/-- No words, none of a lane. -/
@[simp] theorem laneWords_nil (m : Mode) (l : Chan) : laneWords m l [] = [] := by
  cases m <;> simp [laneWords, everyOther]

/-- When every lane in use has a word waiting, a lane's next word stands at its number (R282). -/
theorem laneWords_cons {m : Mode} {l : Chan} (hl : l.toNat < m.lanes) (ws : List Word) (h : m.lanes ≤ ws.length) :
    laneWords m l ws = (ws[l.toNat]?).getD 0#32 :: laneWords m l (ws.drop m.lanes) := by
  cases m <;> simp only [Mode.lanes] at *
  · rcases ws with _ | ⟨a, _ | ⟨b, ws⟩⟩
    · simp at h
    · simp at h
    · cases l
      · rfl
      · cases ws <;> rfl
  all_goals
    rcases ws with _ | ⟨a, ws⟩
    · simp at h
    · have : l.toNat = 0 := by omega
      simp [laneWords, this]

/-- A lane's words of a frame are the lane's words in order (R221). -/
theorem laneWords_encodeFrame (m : Mode) (freq : Word) (sn : Pair Snap) (groups : Pair (List Word)) (l : Chan)
    (hl : l.toNat < m.lanes) :
    laneWords m l (encodeFrame (geometry m freq sn) sn groups) =
      (List.range ((geometry m freq sn).d + (geometry m freq sn).t)).map (laneWord (sn.get l) (groups.get l)) := by
  have hgl : (geometry m freq sn).l = m.lanes := rfl
  generalize geometry m freq sn = g at *
  obtain ⟨d, t, lanes⟩ := g
  subst hgl
  apply List.ext_getElem?
  intro k
  cases m <;> simp only [Mode.lanes, laneWords, encodeFrame, Geometry.n] at *
  · rw [getElem?_everyOther, List.getElem?_drop, List.getElem?_map, List.getElem?_map]
    by_cases hk : k < d + t
    · have : l.toNat + 2 * k < (d + t) * 2 := by omega
      rw [List.getElem?_range this, List.getElem?_range hk]
      simp only [Option.map_some, symbolWord]
      cases l
      · simp [Chan.toNat, Pair.get]
      · have : (1 + 2 * k) / 2 = k := by omega
        simp [Chan.toNat, Pair.get, this]
    · rw [List.getElem?_eq_none (by simp; omega), List.getElem?_eq_none (by simp; omega)]
      rfl
  all_goals
    obtain rfl : l = .ch0 := by
      cases l
      · rfl
      · simp [Chan.toNat] at hl
    rw [List.getElem?_map, List.getElem?_map, Nat.mul_one]
    congr 1
    funext q
    simp [symbolWord, Pair.get, Nat.mod_one]

end Sys2Proof.Machine
end

