-- ==== Sys2Proof/Laws/Words.lean ====
section
/-! SUPPORT. The small lemmas of the encodings: fields of a packed word, a word from its fields, and words from
bytes. -/

namespace Sys2Proof

/-! ## The command word -/

/-- Bit `i` of a command word, from its fields. -/
theorem cmdWord_getLsbD (op : Byte) (ch : Bool) (r : BitVec 23) (i : Nat) :
    (cmdWord op ch r).getLsbD i =
      if i < 8 then op.getLsbD i else if i - 8 < 1 then (BitVec.ofBool ch).getLsbD (i - 8)
      else r.getLsbD (i - 8 - 1) := by
  unfold cmdWord
  simp only [BitVec.getLsbD_append]

@[simp] theorem cmdOp_cmdWord (op : Byte) (ch : Bool) (r : BitVec 23) : cmdOp (cmdWord op ch r) = op := by
  apply BitVec.eq_of_getLsbD_eq
  intro i hi
  simp only [cmdOp, Word.field, BitVec.getLsbD_extractLsb', cmdWord_getLsbD, hi, Nat.zero_add, decide_true,
    Bool.true_and, if_true]

@[simp] theorem cmdCh_cmdWord (op : Byte) (ch : Bool) (r : BitVec 23) : cmdCh (cmdWord op ch r) = ch := by
  simp only [cmdCh, cmdWord_getLsbD]
  cases ch <;> rfl

@[simp] theorem cmdRsvd_cmdWord (op : Byte) (ch : Bool) (r : BitVec 23) : cmdRsvd (cmdWord op ch r) = r := by
  apply BitVec.eq_of_getLsbD_eq
  intro i hi
  simp only [cmdRsvd, Word.field, BitVec.getLsbD_extractLsb', cmdWord_getLsbD, hi, decide_true, Bool.true_and]
  rw [if_neg (by omega), if_neg (by omega)]
  congr 1
  omega

/-- A command word is its three fields. -/
theorem cmdWord_fields (w : Word) : cmdWord (cmdOp w) (cmdCh w) (cmdRsvd w) = w := by
  apply BitVec.eq_of_getLsbD_eq
  intro i hi
  simp only [cmdWord_getLsbD, cmdOp, cmdCh, cmdRsvd, Word.field, BitVec.getLsbD_extractLsb']
  split
  · simp [*]
  · split
    · obtain rfl : i = 8 := by omega
      cases h : w.getLsbD 8 <;> rfl
    · rw [decide_eq_true (by omega), Bool.true_and]
      congr 1
      omega

/-! ## `TI` -/

@[simp] theorem tiFields_tiWord (t : TransferInfo) : tiFields (tiWord t) = t := by
  obtain ⟨a, b, c, d, p⟩ := t
  revert p
  cases a <;> cases b <;> cases c <;> cases d <;> decide

@[simp] theorem tiWord_reserved (t : TransferInfo) : tiWord t &&& tiReservedMask = 0#32 := by
  obtain ⟨a, b, c, d, p⟩ := t
  revert p
  cases a <;> cases b <;> cases c <;> cases d <;> decide

/-- A `TI` word whose reserved bits are 0 is its fields. -/
theorem tiWord_tiFields (w : Word) (h : w &&& tiReservedMask = 0#32) : tiWord (tiFields w) = w := by
  have clear (i : Nat) (hm : tiReservedMask.getLsbD i = true) : w.getLsbD i = false := by
    have := congrArg (fun v => BitVec.getLsbD v i) h
    simpa [hm] using this
  apply BitVec.eq_of_getLsbD_eq
  intro i hi
  unfold tiWord tiFields Word.field
  simp only [BitVec.getLsbD_append, BitVec.getLsbD_extractLsb', BitVec.getLsbD_ofBool]
  interval_cases i <;> first
    | exact (clear _ rfl).symm
    | simp

end Sys2Proof
end

