-- ==== Sys2Proof/Tests/Slice0.lean ====
section
/-! SUPPORT. The model's own tests: ill-formed terms, words written out from the spec's encodings, the vectors of
`spec/95_test_vectors.md` (the expected values are that file's), and a witness for the hypotheses of every
obligation that has some. -/

namespace Sys2Proof.Tests

open Sys2Proof.Machine

/-! ## Well-formedness: one ill-formed term for each check -/

/-- A legal command word is no malformed one (R144, R340). -/
theorem test_wf_malformed : (Instr.cmdMalformed 0x05#8 true 0#23).wellFormed = false := by decide

/-- A block that is well formed, to change one field of. -/
def okBlock : CtrlBlock :=
  { ti := dataTi .pwm, sourceAd := 0#32, destAd := 0x00200000#32, txfrLen := 0x38#32, stride := 0#32,
    nextConbk := 0x00100020#32, word6 := 0#32, word7 := 0#32 }

theorem test_wf_block : (Instr.cb okBlock).wellFormed = true := by decide

/-- `PERMAP = 3` is reserved (R162). -/
theorem test_wf_permap :
    (Instr.cb { okBlock with ti := { okBlock.ti with permap := 3#5 } }).wellFormed = false := by decide

/-- `TXFR_LEN[31:30]` must be 0 (R160). -/
theorem test_wf_length : (Instr.cb { okBlock with txfrLen := 0x40000004#32 }).wellFormed = false := by decide

/-- `STRIDE` must be 0 (R160). -/
theorem test_wf_stride : (Instr.cb { okBlock with stride := 1#32 }).wellFormed = false := by decide

/-! ## Decoding -/

/-- V-11: the bits of each command word by R141: `OP = [7:0]`, `CH = [8]`, reserved `[31:9]`. -/
theorem test_decode_commands :
    decode .command [0b00000001#8, 0#8, 0#8, 0#8] = .ok (.init, []) ∧
    decode .command [0b00000010#8, 0#8, 0#8, 0#8] = .ok (.fini, []) ∧
    decode .command [0b00000011#8, 0#8, 0#8, 0#8] = .ok (.render, []) ∧
    decode .command [0b00000100#8, 0#8, 0#8, 0#8] = .ok (.wait, []) ∧
    decode .command [0b00000101#8, 0b00000000#8, 0#8, 0#8] = .ok (.setGamma .ch0, []) ∧
    decode .command [0b00000101#8, 0b00000001#8, 0#8, 0#8] = .ok (.setGamma .ch1, []) := by decide

/-- V-11: the malformed words. -/
theorem test_decode_malformed :
    [0x00000000#32, 0x00000006#32, 0x000000FF#32, 0x00000104#32, 0x00000205#32, 0x80000001#32].map decodeCmd =
      [.cmdMalformed 0x00#8 false 0#23, .cmdMalformed 0x06#8 false 0#23, .cmdMalformed 0xFF#8 false 0#23,
       .cmdMalformed 0x04#8 true 0#23, .cmdMalformed 0x05#8 false 1#23,
       .cmdMalformed 0x01#8 false 0x400000#23] := by decide

/-- R161 bit by bit: `PERMAP = [20:16]`, `SRC_INC = [8]`, `DEST_DREQ = [6]`, `DEST_INC = [4]`, `INTEN = [0]`. -/
theorem test_decode_ti :
    [0x00000001#32, 0x00000010#32, 0x00000040#32, 0x00000100#32, 0x00060000#32].map tiFields =
      [{ inten := true, destInc := false, destDreq := false, srcInc := false, permap := 0#5 },
       { inten := false, destInc := true, destDreq := false, srcInc := false, permap := 0#5 },
       { inten := false, destInc := false, destDreq := true, srcInc := false, permap := 0#5 },
       { inten := false, destInc := false, destDreq := false, srcInc := true, permap := 0#5 },
       { inten := false, destInc := false, destDreq := false, srcInc := false, permap := 6#5 }] := by decide

/-- V-12's first block, from its bytes (R109, R160). -/
theorem test_decode_block :
    decode .controlBlock
      ([0x40#8, 0x01#8, 0x05#8, 0x00#8] ++ [0#8, 0#8, 0#8, 0#8] ++ [0x00#8, 0x00#8, 0x20#8, 0x00#8] ++
       [0x38#8, 0#8, 0#8, 0#8] ++ [0#8, 0#8, 0#8, 0#8] ++ [0x20#8, 0x00#8, 0x10#8, 0x00#8] ++
       [0#8, 0#8, 0#8, 0#8] ++ [0#8, 0#8, 0#8, 0#8]) = .ok (.cb okBlock, []) := by decide

/-- A reserved `TI` bit (V-50) and too few bytes are rejected by name. -/
theorem test_decode_rejects :
    decodeBlock 0x00050142#32 0#32 0#32 0#32 0#32 0#32 0#32 0#32 = .error .reservedTiBits ∧
    decode .command [1#8, 0#8, 0#8] = .error .truncated := by decide

/-- A row of each kind of the opcode table, in its numbering. -/
theorem test_decode_table :
    decodeTableWord 32 0x00000001 = some .init ∧ decodeTableWord 32 0x00000105 = some (.setGamma .ch1) ∧
    decodeTableWord 32 0x00000206 = some (.cmdMalformed 0x06#8 false 1#23) ∧
    decodeTableWord 256 (0x00050140 + 0x00200000 * 2 ^ 64 + 0x38 * 2 ^ 96 + 0x00100020 * 2 ^ 160) =
      some (.cb okBlock) := by decide

/-! ## Vectors of the functions -/

/-- A snapshot of `count` pixels at brightness 255. -/
def snapshot (count : BitVec 16) (layout : Word) (invert : Bool) : Snap :=
  { count := count, layout := layout, white := layoutWhite layout, brightness := 255#8, invert := invert }

/-- Two snapshots. -/
def snapshots (a b : Snap) : Pair Snap := { ch0 := a, ch1 := b }

/-- The wire groups of pixels at brightness 255 with the identity table. -/
def groupsOf (layout : Word) (ps : List Word) : List Word := ps.map (wireGroup (snapshot 0#16 layout false) [])

/-- V-1, V-5, V-8: wire groups (R215). -/
theorem test_wire_groups :
    groupsOf 0x00081000#32 [0x00FF0000#32, 0x0000FF00#32, 0x000000FF#32] =
      [0x00FF00#32, 0xFF0000#32, 0x0000FF#32] ∧
    groupsOf 0x18081000#32 [0x11223344#32] = [0x33224411#32] ∧
    groupsOf 0x00100800#32 [0x00123456#32] = [0x123456#32] ∧
    groupsOf 0x00000810#32 [0x00123456#32] = [0x563412#32] ∧
    groupsOf 0x00181008#32 [0x00123456#32] = [0x001234#32] ∧
    groupsOf 0x10180800#32 [0xAA123456#32] = [0xAA345612#32] := by decide

/-- V-4: an inverted lane (R220, R221), one lane. -/
theorem test_inverted_frame :
    encodeFrame (geometry .spi 800000#32 (snapshots (snapshot 3#16 0x00081000#32 true) (snapshot 0#16 0#32 false)))
      (snapshots (snapshot 3#16 0x00081000#32 true) (snapshot 0#16 0#32 false))
      { ch0 := [0x00FF00#32, 0xFF0000#32, 0x0000FF#32], ch1 := [] } =
    [0x6DB6DB24#32, 0x92496DB6#32, 0xDB249249#32, 0x6DB6DB6D#32, 0xB6DB6DB6#32, 0xDB6DB6DB#32] ++
    [0x249249FF#32, 0xFFFFFFFF#32, 0xFFFFFFFF#32, 0xFFFFFFFF#32, 0xFFFFFFFF#32, 0xFFFFFFFF#32] := by decide

/-- V-9: two lanes of different lengths (R219 to R221). -/
theorem test_two_lane_frame :
    encodeFrame
      (geometry .pwm 800000#32
        (snapshots (snapshot 1#16 0x00081000#32 false) (snapshot 2#16 0x00081000#32 false)))
      (snapshots (snapshot 1#16 0x00081000#32 false) (snapshot 2#16 0x00081000#32 false))
      { ch0 := [0#32], ch1 := [0#32, 0#32] } =
    [0x92492492#32, 0x92492492#32, 0x49249249#32, 0x49249249#32, 0x24000000#32, 0x24924924#32] ++
    [0#32, 0x92492492#32, 0#32, 0x49240000#32] ++ List.replicate 10 0#32 := by decide

/-- V-6: brightness (R213). -/
theorem test_scale :
    [(255#8, 128#8), (100#8, 128#8), (1#8, 127#8), (1#8, 128#8), (128#8, 128#8), (255#8, 0#8), (200#8, 255#8),
     (254#8, 1#8), (128#8, 1#8), (127#8, 1#8), (0x12#8, 64#8), (0x34#8, 64#8), (0x56#8, 64#8)].map
        (fun p => scale p.1 p.2) =
      [128#8, 50#8, 0#8, 1#8, 64#8, 0#8, 200#8, 1#8, 1#8, 0#8, 5#8, 13#8, 22#8] := by decide

/-- V-7: gamma tables of factors 1.0, 2.0, 3.0 and 0.5 (R231). -/
theorem test_gamma :
    [0, 1, 128, 254, 255].map (gammaOut 0x00010000) = [0, 1, 128, 254, 255] ∧
    [0, 11, 12, 19, 20, 23, 64, 128, 200, 254, 255].map (gammaOut 0x00020000) =
      [0, 0, 1, 1, 2, 2, 16, 64, 157, 253, 255] ∧
    [50, 128, 200, 255].map (gammaOut 0x00030000) = [2, 32, 123, 255] ∧
    [1, 64, 128, 200].map (gammaOut 0x00008000) = [16, 128, 181, 226] := by decide

/-- V-10: white present, and supported (R145, R147). -/
theorem test_layouts :
    [0x00081000#32, 0x00100800#32, 0x08081000#32, 0x00181008#32, 0x00080800#32, 0x00081004#32, 0x18081000#32,
     0x18100800#32, 0x10180800#32, 0x10081000#32, 0x20081000#32, 0xFF081000#32].map
        (fun l => (layoutWhite l, layoutSupported l)) =
      [(false, true), (false, true), (false, true), (false, true), (false, false), (false, false), (true, true),
       (true, true), (true, true), (true, false), (true, false), (true, false)] := by decide

/-- V-12: the chains of the builder (R252). -/
theorem test_chain :
    chainWords .pwm { d := 7, t := 5, l := 2 } =
      [0x00050140#32, 0#32, 0x00200000#32, 0x38#32, 0#32, 0x00100020#32, 0#32, 0#32] ++
      [0x00050141#32, 0x38#32, 0x00200000#32, 0x28#32, 0#32, 0#32, 0#32, 0#32] ∧
    chainWords .pcm { d := 7, t := 5, l := 1 } =
      [0x00020140#32, 0#32, 0x00200000#32, 0x1C#32, 0#32, 0x00100020#32, 0#32, 0#32] ++
      [0x00020141#32, 0x1C#32, 0x00200000#32, 0x14#32, 0#32, 0#32, 0#32, 0#32] ∧
    chainWords .spi { d := 3, t := 5, l := 1 } =
      [0x00060140#32, 0#32, 0x00200000#32, 0x0C#32, 0#32, 0x00100020#32, 0#32, 0#32] ++
      [0x00060141#32, 0x0C#32, 0x00200000#32, 0x14#32, 0#32, 0#32, 0#32, 0#32] := by decide

/-- V-13: `RESULT` (R170). -/
theorem test_codes :
    [RetCode.success, .genericFailure, .outOfMemory, .hardwareNotSupported, .pwmSetup, .dma, .illegalGpio,
     .pcmSetup, .spiSetup].map RetCode.word =
      [0#32, 0xFFFFFFFF#32, 0xFFFFFFFE#32, 0xFFFFFFFD#32, 0xFFFFFFF8#32, 0xFFFFFFF6#32, 0xFFFFFFF5#32,
       0xFFFFFFF4#32, 0xFFFFFFF3#32] := by decide

/-- V-14: the divider (R192). -/
theorem test_divider :
    [(19200000, 800000), (19200000, 400000), (19200000, 1000000), (19200000, 3200000), (19200000, 4000000),
     (19200000, 4800000), (500000000, 800000), (500000000, 400000), (500000000, 1000000), (500000000, 3200000),
     (500000000, 4000000), (5760000, 800000)].map (fun p => computeDivider p.1 p.2) =
      [8, 16, 6, 2, 2, 1, 208, 417, 167, 52, 42, 2] := by decide

/-- V-39: tail words (R219). -/
theorem test_tail : [400000, 800000, 1000000, 2000000].map tailWords = [3, 5, 6, 11] := by decide

/-! ## States to step from -/

/-- What an outcome's state shows. -/
def after {α : Type} (o : Host.Outcome State Fault Refusal) (f : State → α) : Option α :=
  match o with
  | .next t => some (f t)
  | .fault _ => none
  | .refused _ => none

/-- What a command's step leaves of `RESULT`, `CMD_BUSY` and `STATE`. -/
def done (o : Host.Outcome State Fault Refusal) : Option (RetCode × Bool × RState) :=
  after o (fun t => (t.seq.result, t.seq.cmdBusy, t.seq.state))

/-- A command word accepted, no step of it taken. -/
def State.issued (s : State) (w : Word) : State :=
  { s with seq := { s.seq with cmd := w, cmdBusy := true, phase := .start } }

/-- `s` with the registers of channel `n` changed. -/
def State.chan (s : State) (n : Chan) (f : ChanRegs → ChanRegs) : State := { s with regs := s.regs.setChan n f }

/-- The base configuration of the vectors, with INIT issued. -/
def base : State :=
  let s := State.issued State.reset 0x00000001#32
  State.chan { s with env := { s.env with profileId := 0x00A02082#32 } } .ch0
    (fun c => { c with gpio := 18#8, count := 3#16 })

/-! ## INIT -/

/-- V-20 to V-32b, the checks (R310); V-26c and V-32 pass them. -/
theorem test_init_checks :
    [State.chan base .ch0 (fun c => { c with gpio := 2#8 }),
     State.chan base .ch0 (fun c => { c with gpio := 0#8 }),
     State.chan { base with env := { base.env with profileId := 0x12345678#32 } } .ch0
       (fun c => { c with gpio := 0#8 }),
     State.chan base .ch0 (fun c => { c with layout := 0x00080800#32, gpio := 2#8 }),
     State.chan (State.chan base .ch0 (fun c => { c with gpio := 21#8 })) .ch1
       (fun c => { c with gpio := 13#8, count := 1#16 }),
     State.chan (State.chan base .ch0 (fun c => { c with gpio := 10#8 })) .ch1
       (fun c => { c with gpio := 13#8, count := 1#16 }),
     State.chan base .ch1 (fun c => { c with gpio := 12#8, count := 1#16 }),
     State.chan base .ch1 (fun c => { c with gpio := 18#8, count := 1#16 }),
     { base with regs := { base.regs with freq := 399999#32 } },
     State.chan { base with regs := { base.regs with freq := 399999#32 } } .ch0
       (fun c => { c with gpio := 21#8 }),
     { base with regs := { base.regs with dmanum := 15#4 } },
     State.chan base .ch0 (fun c => { c with count := 4097#16 }),
     State.chan { base with cfg := { base.cfg with symWords := 1024 } } .ch0 (fun c => { c with count := 500#16 }),
     { base with regs := { base.regs with freq := 4800000#32 } }].map
        (fun s => after (exec .init s) (fun t => t.seq.result)) =
      [some .illegalGpio, some .illegalGpio, some .hardwareNotSupported, some .genericFailure, some .pcmSetup,
       some .spiSetup, some .illegalGpio, some .illegalGpio, some .pwmSetup, some .pcmSetup, some .dma,
       some .outOfMemory, some .dma, some .pwmSetup] ∧
    [base, State.chan base .ch1 (fun c => { c with gpio := 13#8, count := 1#16 })].map
        (fun s => after (exec .init s) (fun t => t.seq.cmdBusy)) = [some true, some true] := by decide

/-- What INIT carries from its checks, of one LED on channel 0 in PWM mode. -/
def args : InitArgs :=
  { mode := .pwm, active := { ch0 := true, ch1 := false }, prof := Config.exA, freq := 800000#32,
    snap := snapshots (snapshot 3#16 0x00081000#32 false) (snapshot 0#16 0x00081000#32 false), divi := 8#12 }

/-- INIT has reached phase `p`. -/
def initAt (p : Phase) (h : Hold) (clk : Clk) (busy : Bool) (es : List Event := [])
    (us : BitVec 64 := 0#64) (regs : Regs := base.regs) : State :=
  { base with
    cfg := { base.cfg with maxLeds := 4 }
    seq := { base.seq with phase := p, hold := h }
    clk := clk
    env := { base.env with busy := busy, events := es }
    tim := { Tim.reset with timeUs := us }
    regs := regs }

/-- V-32: the commit, with four words of pixel RAM (R312). -/
theorem test_init_commit :
    after (exec .init (initAt (.initCommit args 0#64) .clock { enab := true, divi := 8#12 } true))
      (fun t => (t.statusWord, t.geometryWord, t.lat.coreHz)) =
      some (0x00140001#32, 0x80050007#32, 0x0124F800#32) ∧
    after (exec .init (initAt (.initCommit args 0#64) .clock { enab := true, divi := 8#12 } true))
      (fun t => (t.snap.ch0.latchedWord, t.snap.ch1.latchedWord, t.clkDivWord, t.clkCtlWord)) =
      some (0xFF000003#32, 0xFF000000#32, 0x00008000#32, 0x00000090#32) ∧
    after (exec .init (initAt (.initCommit args 0#64) .clock { enab := true, divi := 8#12 } true))
      (fun t => (t.ram.pixel.ch0.word? 3, t.ram.pixel.ch1.word? 0, t.ram.cb.word? 3, t.ram.cb.word? 8)) =
      some (some 0#32, some 0#32, some 0x38#32, some 0x00050141#32) := by decide

/-! ## An initialised block -/

/-- One LED on channel 0. -/
def oneLed : Pair Snap := snapshots (snapshot 1#16 0x00081000#32 false) (snapshot 0#16 0x00081000#32 false)

/-- Its geometry in PWM mode at 800 kHz. -/
def oneLedGeometry : Geometry := { d := 3, t := 5, l := 2 }

/-- The wire group of its pixel: red at full brightness, in the order G, R, B (V-1). -/
def oneLedGroups : Pair (List Word) := { ch0 := [0x00FF00#32], ch1 := [] }

/-- Its symbol words. -/
def oneLedFrame : List Word := encodeFrame oneLedGeometry oneLed oneLedGroups

/-- The clock is on, but where FINI has disabled it. -/
def clockOn : Phase → Bool
  | .finiRelease _ => false
  | _ => true

/-- A block initialised for one LED on channel 0, its chain in CB RAM and a frame in symbol RAM. -/
def block (q : Seq) (d : Dma) (r : Ser) (es : List Event := []) : State :=
  { State.reset with
    env := { Env.reset with busy := clockOn q.phase, profileId := 0x00A02082#32, events := es }
    regs := { Regs.reset with chan := Regs.reset.chan.set .ch0 { ChanRegs.reset with gpio := 18#8, count := 1#16 } }
    lat := { mode := .pwm, active := { ch0 := true, ch1 := false }, prof := some Config.exA,
             coreHz := 19200000#32, freqL := 800000#32, lanes := 2, built := some (builtFor oneLed),
             geometry := { d := 3#16, t := 5#14, lanes := 2#2 } }
    snap := oneLed
    clk := { enab := clockOn q.phase, divi := 8#12 }
    ram := { Rams.reset with
      cb := Memory.setWords [] 0 (chainWords .pwm oneLedGeometry)
      sym := Memory.setWords [] 0 oneLedFrame }
    seq := q
    dma := d
    ser := r }

/-- The sequencer in a state, at a phase of a command. -/
def seqAt (st : RState) (cmd : Word) (p : Phase) (h : Hold) : Seq :=
  { Seq.reset with state := st, chainValid := true, cmd := cmd, cmdBusy := decide (cmd ≠ 0#32), phase := p, hold := h }

/-- The serializer enabled, with these words and sub-bits. -/
def serWith (fifo : List Word) (left : Nat) : Ser :=
  { enabled := true, fifo := fifo,
    lane := { ch0 := { Lane.reset with oe := true, left := left, shreg := 0x80000001#32 }
              ch1 := { Lane.reset with left := left } } }

/-- The scheduler after `Arm()`. -/
def armed : Dma := { Dma.reset with active := true, conblkAd := cbBase }

/-- The scheduler with a block loaded. -/
def loaded (ti src dst len next : Word) : Dma :=
  { armed with loaded := true, ti := ti, sourceAd := src, destAd := dst, txfrLen := len, nextConbk := next }

/-! ## FINI -/

/-- FINI's first step on a running transfer (R334 step 2). -/
theorem test_fini_stop :
    after (exec .fini (block (seqAt .submitted 2#32 .start .none) armed (serWith [1#32, 2#32] 7)))
      (fun t => (t.dmaCsWord, t.ser.fifo, t.ser.lane.ch0.oe, t.ser.lane.ch0.left, t.clk.enab)) =
      some (0#32, [], false, 0, true) := by decide

/-- FINI's last step (R334 step 4; V-33); and P-3's FINI after a WAIT that failed. -/
theorem test_fini_release :
    done (exec .fini { State.issued State.reset 2#32 with
      seq := { (State.issued State.reset 2#32).seq with result := .genericFailure } }) = some (.success, false, .uninit) ∧
    after (exec .fini (block (seqAt .complete 2#32 (.finiRelease 0#64) .clock) Dma.reset Ser.reset))
      (fun t => (t.statusWord, t.lat.coreHz, t.lat.lanes, t.seq.result, t.clk.divi)) =
      some (0#32, 0#32, 0, .success, 8#12) := by decide

/-! ## RENDER -/

/-- V-35, V-36: the clear step with a snapshot that fails (R320). -/
theorem test_render_clear :
    after (exec .render (State.chan (block (seqAt .complete 3#32 .renderLatch .latch) Dma.reset (serWith [] 0)) .ch0
        (fun c => { c with count := 5000#16 })))
      (fun t => (t.seq.result, t.seq.state, t.snap.ch0.latchedWord)) =
      some (.outOfMemory, .idle, 0xFF001388#32) ∧
    done (exec .render (State.chan (block (seqAt .idle 3#32 .renderLatch .latch) Dma.reset (serWith [] 0)) .ch0
        (fun c => { c with layout := 0x00081004#32 }))) = some (.genericFailure, false, .idle) := by decide

/-- V-39: the arming step of one LED: 24 bits at 800 kHz are 30 µs, and `LATCH_US` (R322). -/
theorem test_render_arm :
    after (exec .render (block (seqAt .encoding 3#32 .renderArm .work) Dma.reset (serWith [] 0)))
      (fun t => (t.tim.renderWait, t.seq.state, t.dma.conblkAd, t.dmaCsWord)) =
      some (330#64, .submitted, 0x00100000#32, 1#32) := by decide

/-! ## WAIT -/

/-- V-40: WAIT at once, and after a transfer (R331). -/
theorem test_wait_codes :
    done (exec .wait (State.issued State.reset 4#32)) = some (.genericFailure, false, .uninit) ∧
    done (exec .wait (block (seqAt .idle 4#32 .start .none) Dma.reset (serWith [] 0))) =
      some (.success, false, .idle) ∧
    done (exec .wait (block (seqAt .complete 4#32 (.waitHold 0#64) .waitCmd) Dma.reset (serWith [] 0))) =
      some (.success, false, .complete) := by decide

/-- V-40: the timeout, one microsecond before it and at it (R331). -/
theorem test_wait_timeout :
    let s := block (seqAt .submitted 4#32 (.waitHold 5#64) .waitCmd) armed (serWith [] 0)
    done (exec .wait { s with tim := { s.tim with timeUs := 1000004#64 } }) = some (.success, true, .submitted) ∧
    done (exec .wait { s with tim := { s.tim with timeUs := 1000005#64 } }) = some (.dma, false, .submitted) := by
  decide

/-! ## SET_GAMMA -/

set_option maxRecDepth 20000 in
/-- V-7: factor 2.0 on channel 1; the other table stays the identity (R330). -/
theorem test_set_gamma :
    after (exec (.setGamma .ch1) { State.reset with regs := { Regs.reset with gammaFactor := 0x00020000#32 } })
      (fun t => [t.ram.gamma.ch1.entry 0#8, t.ram.gamma.ch1.entry 128#8, t.ram.gamma.ch1.entry 255#8,
        t.ram.gamma.ch0.entry 128#8]) = some [0#8, 64#8, 255#8, 128#8] := by decide

/-- V-7: factor 0 (R330). -/
theorem test_set_gamma_zero :
    after (exec (.setGamma .ch0) { State.reset with regs := { Regs.reset with gammaFactor := 0#32 } })
      (fun t => (t.seq.result, t.ram.gamma.ch0)) = some (.genericFailure, []) := by decide

/-! ## Malformed command words -/

/-- V-11: the step after acceptance (R340). -/
theorem test_malformed :
    [0x00000000#32, 0x00000006#32, 0x000000FF#32, 0x00000104#32, 0x00000205#32, 0x80000001#32].map
        (fun w => done (sequencerTurn (State.issued State.reset w))) =
      List.replicate 6 (some (.genericFailure, false, .uninit)) := by decide

/-! ## The control block -/

/-- A scheduler alone: PWM mode, `SUBMITTED`, slot 0 of CB RAM set. -/
def alone (ws : List Word) (d : Dma) (fifo : List Word) : State :=
  { block (seqAt .submitted 0#32 .start .none) d (serWith fifo 0) with
    ram := { Rams.reset with cb := Memory.setWords [] 0 ws, sym := Memory.setWords [] 0 [0xA0B0C0D0#32] } }

/-- `DMA_CS`, `STATE`, `XFER_ERR` and `DMA_TI`. -/
def shown (t : State) : Word × RState × Bool × Word := (t.dmaCsWord, t.seq.state, t.seq.xferErr, t.dma.ti)

/-- V-50 to V-53: the fetch and its checks (R264), and the last of V-12's chain at the last slot. -/
theorem test_cb_fetch :
    [[0x00050142#32, 0#32, 0x00200000#32, 4#32, 0#32, 0#32, 0#32, 0#32],
     [0x00030140#32, 0#32, 0x00200000#32, 4#32, 0#32, 0#32, 0#32, 0#32],
     [0x00050140#32, 0#32, 0x00200000#32, 4#32, 1#32, 0#32, 0#32, 0#32],
     [0x00050140#32, 0#32, 0x00200000#32, 0x40000004#32, 0#32, 0#32, 0#32, 0#32],
     [0x00050140#32, 0#32, 0x00200000#32, 6#32, 0#32, 0#32, 0#32, 0#32],
     [0x00050140#32, 0#32, 0x00200000#32, 8#32, 0#32, 0#32, 0#32, 0#32]].map
        (fun ws => after (schedulerTurn (alone ws armed [])) shown) =
      [some (0x00020100#32, .complete, true, 0#32), some (0x00020100#32, .complete, true, 0#32),
       some (0x00020100#32, .complete, true, 0#32), some (0x00020100#32, .complete, true, 0#32),
       some (0x00030100#32, .complete, true, 0#32), some (0x00000009#32, .submitted, false, 0x00050140#32)] ∧
    [0x00100010#32, 0x00100100#32].map
        (fun a => after (schedulerTurn (alone [] { armed with conblkAd := a } [])) shown) =
      List.replicate 2 (some (0x00010100#32, .complete, true, 0#32)) := by decide

/-- V-54 to V-58: a move's checks, the move, the hold and the finish (R270 to R272). -/
theorem test_cb_moves :
    [(loaded 0x00050140#32 0x00020000#32 0x00200000#32 4#32 0#32, []),
     (loaded 0x00050150#32 4#32 0x00200004#32 4#32 0#32, [7#32]),
     (loaded 0x00050100#32 0#32 0x00200000#32 4#32 0#32, List.replicate 16 0#32),
     (loaded 0x00020140#32 0#32 0x00200000#32 4#32 0#32, []),
     (loaded 0x00050150#32 0#32 0x00200000#32 8#32 0#32, []),
     (loaded 0x00000110#32 8#32 0x48#32 0#32 0#32, [])].map
        (fun p => after (exec (.cb okBlock) (alone [] p.1 p.2))
          (fun t => (t.dmaCsWord, t.dma.sourceAd, t.dma.destAd, t.dma.txfrLen, t.ser.fifo))) =
      [some (0x00040100#32, 0x00020000#32, 0x00200000#32, 4#32, []),
       some (0x00050100#32, 4#32, 0x00200004#32, 4#32, []),
       some (0x00060100#32, 0#32, 0x00200000#32, 4#32, []),
       some (0x00000001#32, 0#32, 0x00200000#32, 4#32, []),
       some (0x00000009#32, 4#32, 0x00200004#32, 4#32, [0xA0B0C0D0#32]),
       some (0x00000002#32, 8#32, 0x48#32, 0#32, [])] := by decide

/-- V-59: an underrun at the first tick (R283, R362). -/
theorem test_underrun :
    after (.next (block (seqAt .submitted 0#32 .start .none) armed (serWith [] 0)).tick)
      (fun t => (t.dmaCsWord, t.dma.conblkAd, t.seq.state, t.seq.xferErr)) =
      some (0x00070100#32, 0x00100000#32, .complete, true) := by decide

/-! ## The invariant of the states above -/

/-- The chain's words are in CB RAM. -/
theorem block_chain : ChainIn (Memory.setWords [] 0 (chainWords .pwm oneLedGeometry)) .pwm oneLedGeometry :=
  fun _ _ h => Memory.word?_setWords_in _ (Nat.zero_le _) h

/-- The invariant of a block, by what its sequencer, scheduler and serializer must meet. -/
theorem block_inv {q : Seq} {d : Dma} {r : Ser} {es : List Event} (live : q.state ≠ .uninit)
    (valid : q.chainValid = true)
    (idlePhase : q.cmdBusy = false → q.phase = .start) (phase : (block q d r es).PhaseOk)
    (hold : q.phase.holdOk q.hold) (active : d.active = true → q.state = .submitted)
    (loaded : d.loaded = true → d.active = true) (error : d.error = true ↔ d.errCause ≠ .none)
    (xfer : q.xferErr = true → q.state = .complete) (fifo : r.fifo.length ≤ 16) (left0 : r.lane.ch0.left ≤ 32)
    (left1 : r.lane.ch1.left = r.lane.ch0.left)
    (drive0 : r.lane.ch0.oe = false → r.lane.ch0.out = false)
    (drive1 : r.lane.ch1.oe = false → r.lane.ch1.out = false)
    (running : ¬ q.phase.stopping → r.enabled = true)
    (inChain : d.active = true → d.InChain .pwm oneLedGeometry)
    (finished : q.state = .submitted → d.active = false → q.phase.stopping ∨ (d.ended = true ∧ d.int = true))
    (drained : q.state ≠ .submitted → r.fifo = [] ∧ r.lane.ch0.left = 0 ∧ r.lane.ch1.left = 0) :
    (block q d r es).Inv :=
  have on (h : ¬ q.phase.stopping) : clockOn q.phase = true := by
    cases hp : q.phase <;> simp_all [clockOn, Phase.stopping]
  have geo : (block q d r es).builtGeometry (builtFor oneLed) = oneLedGeometry :=
    (by decide : geometry .pwm 800000#32 (builtSnaps (builtFor oneLed)) = oneLedGeometry)
  { cfgOk := (by decide : Config.default.ok = true)
    idlePhase, phase, hold, left0, left1, drive0, drive1, finished, drained
    activeSubmitted := active
    loadedActive := loaded
    errorCause := error
    xferErr := xfer
    fifoBound := fifo
    white := (by constructor <;> decide : WhiteOk oneLed)
    uninit := fun h => absurd h live
    lanes := fun _ => rfl
    snaps := fun _ => (⟨by decide, by decide, by decide⟩ : SnapsOk .pwm { ch0 := true, ch1 := false } oneLed)
    freq := fun _ => (by decide : freqMin ≤ (800000#32).toNat)
    running := fun _ h => ⟨on h, on h, (by decide : diviMin ≤ (8#12).toNat), running h⟩
    chain := fun _ => ⟨builtFor oneLed, rfl, by
      rw [geo]; exact ⟨block_chain, (by decide : oneLedGeometry.n ≤ Config.default.symWords)⟩⟩
    armed := fun h => ⟨valid, fun b hb => by cases Option.some.inj hb; rw [geo]; exact inChain h⟩ }

/-- A block with no command running and no transfer is in the invariant. -/
theorem idle_inv (es : List Event) : (block (seqAt .idle 0#32 .start .none) Dma.reset (serWith [] 0) es).Inv := by
  apply block_inv <;> simp [seqAt, Seq.reset, Dma.reset, serWith, Lane.reset, Phase.holdOk, State.PhaseOk, block]

/-- What one LED's INIT carries meets what the commit needs. -/
theorem args_ok {mayFail : Bool} {errors : TransferErrors} :
    args.Ok { Config.default with maxLeds := 4, clockMayFail := mayFail, transferErrors := errors } where
  snaps := ⟨by decide, by decide, by decide⟩
  frame := by cases mayFail <;> cases errors <;> exact ⟨by decide, by decide, by decide⟩
  white := by constructor <;> decide
  divi := by decide
  freq := by decide

/-- INIT in progress is in the invariant. -/
theorem init_inv {p : Phase} {h : Hold} {clk : Clk} {busy : Bool} {es : List Event} {us : BitVec 64}
    {regs : Regs} (phase : (initAt p h clk busy es us regs).PhaseOk) (hold : p.holdOk h) :
    (initAt p h clk busy es us regs).Inv where
  cfgOk := (by decide : ({ Config.default with maxLeds := 4 } : Config).ok = true)
  idlePhase := fun h => nomatch h
  phase := phase
  hold := hold
  activeSubmitted := fun h => nomatch h
  loadedActive := fun h => nomatch h
  errorCause := ⟨(fun h => nomatch h), fun h => absurd rfl h⟩
  xferErr := fun h => nomatch h
  fifoBound := Nat.zero_le _
  left0 := Nat.zero_le _
  left1 := rfl
  drive0 := fun _ => rfl
  drive1 := fun _ => rfl
  white := (by constructor <;> decide : WhiteOk { ch0 := Snap.reset, ch1 := Snap.reset })
  uninit := fun _ => ⟨⟨rfl, rfl, rfl, ⟨rfl, rfl, rfl⟩, ⟨rfl, rfl, rfl⟩⟩, ⟨rfl, rfl, rfl⟩⟩
  lanes := fun h => absurd rfl h
  snaps := fun h => absurd rfl h
  freq := fun h => absurd rfl h
  running := fun h => absurd rfl h
  chain := fun h => nomatch h
  armed := fun h => nomatch h
  finished := fun h => nomatch h
  drained := fun _ => ⟨rfl, rfl, rfl⟩

/-! ## Witnesses

For each obligation that has hypotheses, a state (and operands) that meets them together; where it has several
clauses, one for each, at the ends of a range. -/

/-- An outcome whose state has a property is a next state that has it. -/
theorem exists_next {o : Host.Outcome State Fault Refusal} (P : State → Prop) [DecidablePred P]
    (h : after o (fun t => decide (P t)) = some true) : ∃ t, o = .next t ∧ P t := by
  cases o with
  | next t => exact ⟨t, rfl, by simpa [after] using h⟩
  | fault f => cases f
  | refused r => simp [after] at h

/-- The state after an event. -/
def advance (s : State) (e : Event) : State :=
  match step (s.given e) with
  | .next t => t
  | .fault _ => s
  | .refused _ => s

/-- An event that gives a next state is a step of a run. -/
theorem advance_next {s : State} {e : Event} (h : after (step (s.given e)) (fun _ => true) = some true) :
    step (s.given e) = .next (advance s e) := by
  unfold advance
  cases hs : step (s.given e) with
  | next t => rfl
  | fault f => cases f
  | refused r => rw [hs] at h; simp [after] at h

/-! ### A fair run -/

/-- The agents in turn, time first. -/
def rounds (n : Nat) : Event :=
  match n % 5 with
  | 0 => .timer
  | 1 => .scheduler
  | 2 => .sequencer
  | 3 => .serializer
  | _ => .clockManager

/-- The run of those events from a state. -/
def roundRun (s : State) : Nat → State
  | 0 => s
  | n + 1 => advance (roundRun s n) (rounds n)

theorem rounds_agent (n : Nat) : isAgent (rounds n) = true := by
  unfold rounds
  split <;> rfl

/-- Every agent's turn comes among any five events. -/
theorem rounds_all (n : Nat) {e : Event} (h : isAgent e = true) : ∃ m, n ≤ m ∧ m < n + 5 ∧ rounds m = e := by
  have go (c : Nat) (hc : c < 5) (k : ∀ m, m % 5 = c → rounds m = e) : ∃ m, n ≤ m ∧ m < n + 5 ∧ rounds m = e :=
    ⟨n + (c + 5 - n % 5) % 5, by omega, by omega, k _ (by omega)⟩
  cases e <;> simp only [isAgent, reduceCtorEq] at h
  · exact go 2 (by decide) fun m h => by simp only [rounds, h]
  · exact go 1 (by decide) fun m h => by simp only [rounds, h]
  · exact go 3 (by decide) fun m h => by simp only [rounds, h]
  · exact go 4 (by decide) fun m h => by simp only [rounds, h]
  · exact go 0 (by decide) fun m h => by simp only [rounds, h]

/-- An agent's event is its turn, and keeps the parameters and `rst_n`. -/
theorem advance_turn {s : State} {e : Event} (he : isAgent e = true) (h : s.env.rstN = true) :
    turn e s = .next (advance s e) ∧ (advance s e).cfg = s.cfg ∧ (advance s e).env.rstN = true := by
  obtain ⟨t, ht⟩ := agentTurn_answers (s := s) he
  obtain ⟨k1, k2⟩ := agentTurn_fixed he ht
  unfold advance
  rw [step_given h, ht]
  exact ⟨rfl, k1, k2.trans h⟩

/-- The parameters and `rst_n` stay. -/
theorem roundRun_fixed {s : State} (h : s.env.rstN = true) (n : Nat) :
    (roundRun s n).cfg = s.cfg ∧ (roundRun s n).env.rstN = true := by
  induction n with
  | zero => exact ⟨rfl, h⟩
  | succ n ih =>
    obtain ⟨_, k1, k2⟩ := advance_turn (rounds_agent n) ih.2
    exact ⟨k1.trans ih.1, k2⟩

/-- Each event is a step. -/
theorem roundRun_turn {s : State} (h : s.env.rstN = true) (n : Nat) :
    turn (rounds n) (roundRun s n) = .next (roundRun s (n + 1)) :=
  (advance_turn (rounds_agent n) (roundRun_fixed h n).2).1

/-- It is a run of the time model. -/
theorem roundRun_fair {s : State} (h : s.env.rstN = true) (hc : 5 ≤ s.cfg.clkTimeoutUs) :
    FairRun (roundRun s) rounds where
  run n := (step_given (roundRun_fixed h n).2).trans (roundRun_turn h n)
  timer n := (rounds_all n rfl).imp fun _ k => ⟨k.1, k.2.2⟩
  scheduler n _ := (rounds_all n rfl).imp fun _ k => ⟨k.1, k.2.2⟩
  sequencer n _ := (rounds_all n rfl).imp fun _ k => ⟨k.1, k.2.2⟩
  serializer n _ := (rounds_all n rfl).imp fun _ k => ⟨k.1, k.2.2⟩
  clockManager n k hk _ hold := by
    obtain ⟨j, h1, h2, h3⟩ := rounds_all n (e := .clockManager) rfl
    have late : k ≤ j := by
      by_contra hj
      have hs := roundRun_turn h j
      rw [h3] at hs
      have e : roundRun s (j + 1) = (roundRun s j).clockManagerStep := (Host.Outcome.next.inj hs).symm
      obtain ⟨_, _, q⟩ := hold (j + 1) (by omega) (by omega)
      rw [e] at q
      exact q rfl
    have len : microseconds rounds n k ≤ (List.range (k - n)).length := List.countP_le_length
    rw [List.length_range] at len
    rw [(roundRun_fixed h n).1]
    omega

/-- With no command running, none comes. -/
theorem roundRun_noCommand {s : State} (h : s.env.rstN = true) (hb : s.seq.cmdBusy = false) (n : Nat) :
    (roundRun s n).seq.cmdBusy = false ∧ (roundRun s n).seq.phase = s.seq.phase := by
  induction n with
  | zero => exact ⟨hb, rfl⟩
  | succ n ih =>
    have k := roundRun_turn h n
    by_cases he : rounds n = .sequencer
    · rw [he] at k
      rcases sequencerTurn_cases k with ⟨q, _⟩ | ⟨_, q⟩
      · rw [ih.1] at q; cases q
      · rw [q]; exact ih
    · obtain ⟨q, _⟩ := turn_sameCommand (.inr (rounds_agent n)) he k (roundRun_fixed h (n + 1)).2
      exact ⟨q.busy.trans ih.1, q.phase.trans ih.2⟩

/-- The same block with `CLOCK_MAY_FAIL = false` and `TRANSFER_ERRORS = never`. -/
def State.orderly (s : State) : State :=
  { s with cfg := { s.cfg with clockMayFail := false, transferErrors := .never } }

theorem orderly_inv {s : State} (h : s.Inv) (p : (State.orderly s).PhaseOk) : (State.orderly s).Inv :=
  ⟨h.cfgOk, h.idlePhase, p, h.hold, h.activeSubmitted, h.loadedActive, h.errorCause, h.xferErr, h.fifoBound, h.left0,
    h.left1, h.drive0, h.drive1, h.white, fun q => have ⟨a, b⟩ := h.uninit q; ⟨⟨a.1, a.2, a.3, a.4, a.5⟩, b.1, b.2, b.3⟩,
    h.lanes, h.snaps, h.freq, h.running, h.chain, h.armed, h.finished, h.drained⟩

/-! ### Encodings -/

theorem witness_DecodeInvertsEncode :
    [Instr.init, .fini, .render, .wait, .setGamma .ch0, .setGamma .ch1, .cmdMalformed 0x00#8 false 0#23,
     .cmdMalformed 0xFF#8 true 0x7FFFFF#23, .cb okBlock].all Instr.wellFormed = true := by decide

theorem witness_EncodeInvertsDecode :
    decodeBlock 0x00050140#32 0#32 0x00200000#32 0x38#32 0#32 0x00100020#32 0#32 0#32 = .ok (.cb okBlock) := by decide

/-- Each way of being malformed. -/
theorem witness_MalformedCommandFails :
    State.reset.seq.cmdBusy = false ∧
    (Word.field 0x00000000#32 0 8).toNat = 0 ∧ 5 < (Word.field 0x00000006#32 0 8).toNat ∧
    Word.field 0x00000205#32 9 23 ≠ 0#23 ∧ ((0x00000104#32).getLsbD 8 = true ∧ (Word.field 0x00000104#32 0 8).toNat ≠ 5) := by
  decide

theorem witness_LayoutRoundTrip : layoutWhite 0x10081000#32 = true ∧ layoutWhite 0x0F081000#32 = false := by decide

theorem witness_SupportedLayouts :
    layoutWhite 0x18081000#32 = true ∧ layoutWhite 0x0F081000#32 = false ∧ ChanRegs.reset.layout = 0x00081000#32 := by
  decide

/-! ### The machine as a whole -/

theorem witness_StepKeepsCanonicalMemory :
    State.reset.ram.wf = true ∧ ∃ t, step (State.reset.given .timer) = .next t := ⟨by decide, _, rfl⟩

theorem witness_StepKeepsInvariant :
    (block (seqAt .idle 0#32 .start .none) Dma.reset (serWith [] 0) [.serializer]).Inv ∧
    ∃ t, step (block (seqAt .idle 0#32 .start .none) Dma.reset (serWith [] 0) [.serializer]) = .next t :=
  ⟨idle_inv _, _, rfl⟩

theorem witness_StepRunsCommand :
    let s := State.given base .sequencer
    let t := State.given State.reset .sequencer
    s.env.rstN = true ∧ s.env.events = .sequencer :: [] ∧ s.seq.cmdBusy = true ∧
    t.env.rstN = true ∧ t.env.events = .sequencer :: [] ∧ t.seq.cmdBusy = false := by decide

/-- The last block of V-12's first chain, in slot `j` of CB RAM. -/
def slotWords : List Word := [0x00050141#32, 0x38#32, 0x00200000#32, 0x28#32, 0#32, 0#32, 0#32, 0#32]

/-- The scheduler is about to fetch slot `j`. -/
def atSlot (j : Nat) : State :=
  { block (seqAt .submitted 0#32 .start .none) { armed with conblkAd := BitVec.ofNat 32 (0x00100000 + 32 * j) }
      (serWith [] 0) [.scheduler] with
    ram := { Rams.reset with cb := Memory.setWords [] (8 * j) slotWords } }

/-- The first and the last slot, and a loaded block. -/
theorem witness_StepRunsControlBlock :
    (∀ j ∈ [0, 7], (atSlot j).env.rstN = true ∧ (atSlot j).env.events = .scheduler :: [] ∧
      (atSlot j).dma.active = true ∧ (atSlot j).dma.loaded = false ∧ j < 8 ∧
      (atSlot j).dma.conblkAd = BitVec.ofNat 32 (0x00100000 + 32 * j) ∧
      (List.range 8).map (fun k => (atSlot j).ram.cb.word? (8 * j + k)) = slotWords.map some) ∧
    (∃ i, decodeBlock 0x00050141#32 0x38#32 0x00200000#32 0x28#32 0#32 0#32 0#32 0#32 = .ok i) ∧
    (block (seqAt .submitted 0#32 .start .none) (loaded 0x00050140#32 0#32 0x00200000#32 4#32 0#32)
      (serWith [] 0) [.scheduler]).dma.loaded = true := ⟨by decide, ⟨_, rfl⟩, by decide⟩

theorem witness_OnlyBusAccessesRefused :
    let s := State.given State.reset (.host 0x004#20 4 .read)
    let t := State.given State.reset (.host 0x005#20 4 .read)
    let u := State.given { State.reset with env := { Env.reset with rstN := false } } (.host 0x004#20 4 .read)
    s.env.events = .host 0x004#20 4 .read :: [] ∧ s.env.rstN = true ∧
    t.env.events = .host 0x005#20 4 .read :: [] ∧ t.env.rstN = true ∧ ¬ (0x005#20).toNat % 4 = 0 ∧
    step t = .refused .busError ∧ step u = .refused .inReset :=
  ⟨rfl, rfl, rfl, rfl, by decide, rfl, rfl⟩

/-- RENDER's encoding step and the completion step. -/
theorem witness_StateTransitions :
    let s := block (seqAt .idle 3#32 .renderEnter .none) Dma.reset (serWith [] 0) [.sequencer]
    let u := block (seqAt .submitted 0#32 .start .none) { Dma.reset with ended := true, int := true } (serWith [] 0)
      [.scheduler]
    (s.Inv ∧ s.env.rstN = true ∧ ∃ t, step s = .next t ∧ t.seq.state ≠ s.seq.state) ∧
    (u.Inv ∧ u.env.rstN = true ∧ ∃ t, step u = .next t ∧ t.seq.state ≠ u.seq.state) := by
  intro s u
  refine ⟨⟨?_, rfl, exists_next _ (by decide)⟩, ⟨?_, rfl, exists_next _ (by decide)⟩⟩
  · apply block_inv <;>
      simp [seqAt, Seq.reset, Dma.reset, serWith, Lane.reset, Phase.holdOk, State.PhaseOk, block]
    exact ⟨by decide, by decide, by decide, by decide⟩
  · apply block_inv <;>
      simp [seqAt, Seq.reset, Dma.reset, serWith, Lane.reset, Phase.holdOk, State.PhaseOk, block]

/-- A scheduler that has just been armed is in the invariant. -/
theorem armed_inv {fifo : List Word} {left : Nat} {es : List Event} (hf : fifo.length ≤ 16) (hl : left ≤ 32) :
    (block (seqAt .submitted 0#32 .start .none) armed (serWith fifo left) es).Inv := by
  apply block_inv <;>
    simp [seqAt, Seq.reset, Dma.reset, armed, serWith, Lane.reset, Phase.holdOk, State.PhaseOk, block, Dma.InChain,
      hf, hl]

theorem witness_OnlyUnderrunOccurs :
    let s := block (seqAt .submitted 0#32 .start .none) armed (serWith [1#32] 0) [.serializer]
    s.Inv ∧ s.dma.error = false ∧ ∃ t, step s = .next t ∧ t.dma.error = true :=
  ⟨armed_inv (by decide) (by decide), rfl, exists_next _ (by decide)⟩

/-- INIT's programming step and its commit. -/
theorem witness_DividerChangesStopped :
    let s := initAt (.initProgram args 0#64) .clock { enab := false, divi := 0#12 } false [.sequencer]
    let u := initAt (.initCommit args 0#64) .clock { enab := true, divi := 8#12 } true
    (s.Inv ∧ s.env.rstN = true ∧ ∃ t, step s = .next t ∧ t.clk.divi ≠ s.clk.divi) ∧
    (u.Inv ∧ u.seq.phase = .initCommit args 0#64 ∧ ∃ t, exec .init u = .next t ∧ t.seq.state = .idle) := by
  intro s u
  refine ⟨⟨?_, rfl, exists_next _ (by decide)⟩, ⟨?_, rfl, exists_next _ (by decide)⟩⟩
  · exact init_inv ⟨by decide, rfl, args_ok, rfl⟩ (.inr rfl)
  · exact init_inv ⟨by decide, rfl, args_ok, rfl, rfl⟩ (.inr rfl)

theorem witness_OnlyInitAndFiniTouchClock :
    let s := State.given base .clockManager
    s.env.rstN = true ∧ (∃ t, step s = .next t) ∧ s.nextEvent.1 ≠ .sequencer := ⟨rfl, ⟨_, rfl⟩, by decide⟩

/-- INIT's commit changes the snapshot and the latched configuration; FINI's last step changes the latter. -/
theorem witness_OnlySnapshotStepsWriteSnapshot :
    let s := initAt (.initCommit args 0#64) .clock { enab := true, divi := 8#12 } true [.sequencer]
    let u := block (seqAt .idle 2#32 (.finiRelease 0#64) .clock) Dma.reset Ser.reset [.sequencer]
    s.env.rstN = true ∧ (∃ t, step s = .next t ∧ (t.snap ≠ s.snap ∧ t.lat ≠ s.lat)) ∧
    u.env.rstN = true ∧ ∃ t, step u = .next t ∧ t.lat ≠ u.lat :=
  ⟨rfl, exists_next _ (by decide), rfl, exists_next _ (by decide)⟩

theorem witness_TimerAndClockManager :
    let s := State.given base .timer
    let u := State.given base .clockManager
    s.env.rstN = true ∧ s.nextEvent.1 = .timer ∧ (∃ t, step s = .next t) ∧
    u.env.rstN = true ∧ u.nextEvent.1 = .clockManager ∧ ∃ t, step u = .next t :=
  ⟨rfl, rfl, ⟨_, rfl⟩, rfl, rfl, _, rfl⟩

theorem witness_BufferHazardExactly :
    let s := State.given State.reset (.host 0x000#20 4 (.write 0x40#32))
    let u := { s with seq := { s.seq with bufHazard := true } }
    s.env.rstN = true ∧ s.seq.bufHazard = false ∧ (∃ t, step s = .next t) ∧
    u.seq.bufHazard = true ∧ ∃ t, step u = .next t ∧ t.seq.bufHazard = false :=
  ⟨rfl, rfl, ⟨_, rfl⟩, rfl, exists_next _ (by decide)⟩

/-- A running timer: both shadows change at a read of the low word. -/
theorem witness_WideReadsAreConsistent :
    let s := { State.reset with tim := { Tim.reset with timeUs := 1#64 <<< 32, renderWait := 1#64 <<< 32 } }
    let u := State.given s (.host 0x020#20 4 .read)
    let v := State.given s (.host 0x028#20 4 .read)
    u.env.rstN = true ∧ (∃ t, step u = .next t ∧ t.tim.timeHiShadow ≠ u.tim.timeHiShadow) ∧
    v.env.rstN = true ∧ ∃ t, step v = .next t ∧ t.tim.rwaitHiShadow ≠ v.tim.rwaitHiShadow :=
  ⟨rfl, exists_next _ (by decide), rfl, exists_next _ (by decide)⟩

/-! ### Reset and the host port -/

theorem witness_ResetGivesResetValues :
    let low := { State.reset with env := { Env.reset with rstN := false } }
    (low.given .resetHigh).env.events = .resetHigh :: [] ∧ (low.given .resetHigh).env.rstN = false ∧
    (base.given .resetLow).env.events = .resetLow :: [] ∧ (base.given .resetLow).env.rstN = true ∧
    (low.given .timer).env.events = .timer :: [] ∧ (low.given .timer).env.rstN = false ∧
    (low.given (.host 0#20 4 .read)).env.events = .host 0#20 4 .read :: [] := by decide

/-- `DREQ` is 1 with room in the FIFO, and 0 with none and with no block loaded. -/
theorem witness_PackedRegisters :
    (block (seqAt .idle 0#32 .start .none) Dma.reset (serWith [] 0)).Inv ∧
    [(loaded 0x00050140#32 0#32 0x00200000#32 4#32 0#32, 15), (loaded 0x00050140#32 0#32 0x00200000#32 4#32 0#32, 16),
     (armed, 15)].map (fun p =>
        let s := block (seqAt .submitted 0#32 .start .none) p.1 (serWith (List.replicate p.2 0#32) 0)
        (s.dma.loaded, decide (s.dma.ti.field 16 5 = 5#5), decide (s.ser.fifo.length < s.cfg.fifoDepth))) =
      [(true, true, true), (true, true, false), (false, false, true)] := ⟨idle_inv [], by decide⟩

/-- Both ends of each range. -/
theorem witness_ReservedAndReadOnlyOffsets :
    [0x0005C, 0x0007C, 0x0009C, 0x000BC, 0x000C0, 0x000FC, 0x00200, 0x003FC, 0x00C00, 0x0FFFC, 0x30000, 0x3FFFC,
     0x80000, 0xFFFFC].all (fun o => decide (o % 4 = 0 ∧ (0x05C ≤ o ∧ o ≤ 0x07C ∨ o = 0x09C ∨ o = 0x0BC ∨
        0x0C0 ≤ o ∧ o ≤ 0x0FC ∨ 0x200 ≤ o ∧ o ≤ 0x3FC ∨ 0xC00 ≤ o ∧ o ≤ 0xFFFC ∨
        0x30000 ≤ o ∧ o ≤ 0x3FFFC ∨ 0x80000 ≤ o ∧ o ≤ 0xFFFFC))) = true ∧
    (let c := Config.default
     c.maxLeds ≤ (0x14000 - 0x10000) / 4 ∧ c.maxLeds ≤ (0x1FFFC - 0x10000) / 4 ∧
     c.maxLeds ≤ (0x24000 - 0x20000) / 4 ∧ c.symWords ≤ (0x60000 - 0x40000) / 4 ∧
     ¬ c.maxLeds ≤ (0x13FFC - 0x10000) / 4 ∧ ¬ c.symWords ≤ (0x5FFFC - 0x40000) / 4) ∧
    [0x00004, 0x00018, 0x00058, 0x00094, 0x00098, 0x000B4, 0x000B8, 0x00100, 0x001FC, 0x40000, 0x7FFFC].all
      (fun o => decide (o % 4 = 0 ∧ (o = 0x004 ∨ 0x018 ≤ o ∧ o ≤ 0x058 ∨ o = 0x094 ∨ o = 0x098 ∨ o = 0x0B4 ∨
        o = 0x0B8 ∨ 0x100 ≤ o ∧ o ≤ 0x1FC ∨ 0x40000 ≤ o ∧ o ≤ 0x7FFFC))) = true := by decide

/-- The last word of a pixel RAM that has a value, and the first, that has none. -/
theorem witness_GammaAndPixelWindows :
    let s := { State.reset with ram := { Rams.reset with pixel :=
      { ch0 := Memory.setWords [] 4095 [0x00FF0000#32], ch1 := [] } } }
    4095 < s.cfg.maxLeds ∧ 4095 < 0x4000 ∧ (s.ram.pixel.get .ch0).word? 4095 = some 0x00FF0000#32 ∧
    0 < s.cfg.maxLeds ∧ (s.ram.pixel.get .ch0).word? 0 = none := by decide

theorem witness_SymbolAndBlockWindows :
    let s := { State.reset with ram := { Rams.reset with
      sym := Memory.setWords [] 32767 [0x12345678#32], cb := Memory.setWords [] 63 [0x9ABCDEF0#32] } }
    32767 < s.cfg.symWords ∧ 32767 < 0x10000 ∧ s.ram.sym.word? 32767 = some 0x12345678#32 ∧
    63 < 64 ∧ s.ram.cb.word? 63 = some 0x9ABCDEF0#32 := by decide

theorem witness_CommandsAcceptedOrDropped : State.reset.seq.cmdBusy = false ∧ base.seq.cmdBusy = true := by decide

/-! ### INIT -/

/-- Every check passes; and each check fails for a state that passes those before it, at the end of its range
where it has one. -/
theorem witness_InitChecksInOrder :
    let find (s : State) := s.cfg.profiles.find? (fun p => p.id == s.env.profileId)
    let leds (k : BitVec 16) := State.chan base .ch0 (fun c => { c with count := k })
    base.seq.phase = .start ∧ base.seq.state = .uninit ∧ find base = some Config.exA ∧
    (base.regs.chan.get .ch0).gpio ≠ 0#8 ∧
    (((base.regs.chan.get .ch0).gpio, PinFn.pwm0) ∈ base.cfg.pinFunctions) ∧
    ¬ (((base.regs.chan.get .ch0).gpio, PinFn.pcmDout) ∈ base.cfg.pinFunctions) ∧
    layoutSupported (base.regs.chan.get .ch0).layout = true ∧ ¬ 0 < (base.regs.chan.get .ch1).count.toNat ∧
    ¬ (400000#32).toNat < 400000 ∧ (399999#32).toNat < 400000 ∧
    Config.exA.dmaMask.getLsbD 10 = true ∧ Config.exA.dmaMask.getLsbD 15 = false ∧
    ¬ base.cfg.maxLeds < ((leds 4096#16).regs.chan.get .ch0).count.toNat ∧
    base.cfg.maxLeds < ((leds 4097#16).regs.chan.get .ch0).count.toNat ∧
    ¬ base.cfg.symWords < ((31 + 3 * (4096 * 24)) / 32 + (31999999 + 165 * 800000) / 32000000) * 2 ∧
    1024 < ((31 + 3 * (500 * 24)) / 32 + (31999999 + 165 * 800000) / 32000000) * 2 ∧
    (¬ (computeDivider 19200000 4000000 < 2) ∧ ¬ 4095 < computeDivider 19200000 4000000) ∧
    computeDivider 19200000 4800000 < 2 ∧
    (block (seqAt .idle 1#32 .start .none) Dma.reset (serWith [] 0)).seq.state ≠ .uninit ∧
    find { base with env := { base.env with profileId := 0x12345678#32 } } = none := by decide

/-- Each phase, the clock answering, not answering yet, and at the timeout. -/
theorem witness_InitProgramsClock :
    let at' (p : Phase) (enab busy : Bool) (us : BitVec 64) : State :=
      initAt p .clock { enab := enab, divi := 8#12 } busy [] us
    let late (s : State) : Bool := s.cfg.clockMayFail && decide (0 + s.cfg.clkTimeoutUs ≤ s.tim.timeUs.toNat)
    (at' (.initDisable args) true true 0#64).seq.phase = .initDisable args ∧
    [at' (.initProgram args 0#64) false true 999#64, at' (.initProgram args 0#64) false true 1000#64,
     at' (.initProgram args 0#64) false false 0#64].map (fun s => (s.seq.phase, s.env.busy, late s)) =
      [(.initProgram args 0#64, true, false), (.initProgram args 0#64, true, true),
       (.initProgram args 0#64, false, false)] ∧
    (at' (.initEnable args) false false 0#64).seq.phase = .initEnable args ∧
    [at' (.initCommit args 0#64) true false 999#64, at' (.initCommit args 0#64) true false 1000#64,
     at' (.initCommit args 0#64) true true 0#64].map (fun s => (s.seq.phase, s.env.busy, late s)) =
      [(.initCommit args 0#64, false, false), (.initCommit args 0#64, false, true),
       (.initCommit args 0#64, true, false)] := by decide

/-- A failing check, the programming step, and a clock that does not answer (V-15). -/
theorem witness_InitFailureChangesNothing :
    let s := block (seqAt .idle 1#32 .start .none) Dma.reset (serWith [] 0)
    let u := initAt (.initProgram args 0#64) .clock { enab := false, divi := 0#12 } false
    let v := initAt (.initCommit args 0#64) .clock { enab := true, divi := 8#12 } false [] 1000#64
    (s.Inv ∧ s.seq.cmdBusy = true ∧ decodeCmd s.seq.cmd = .init ∧ s.seq.phase = .start ∧
      ∃ t, exec .init s = .next t ∧ (t.seq.cmdBusy = false ∧ t.seq.result ≠ .success)) ∧
    (u.Inv ∧ u.seq.cmdBusy = true ∧ decodeCmd u.seq.cmd = .init ∧
      ∃ t, exec .init u = .next t ∧ (t.seq.cmdBusy = true ∧ t.clk.divi ≠ u.clk.divi)) ∧
    (v.Inv ∧ v.seq.cmdBusy = true ∧ decodeCmd v.seq.cmd = .init ∧ v.seq.phase ≠ .start ∧
      ∃ t, exec .init v = .next t ∧ (t.seq.cmdBusy = false ∧ t.seq.result ≠ .success)) := by
  intro s u v
  refine ⟨⟨?_, rfl, by decide, rfl, exists_next _ (by decide)⟩, ⟨?_, rfl, by decide, exists_next _ (by decide)⟩,
    ⟨?_, rfl, by decide, by decide, exists_next _ (by decide)⟩⟩
  · apply block_inv <;>
      simp [seqAt, Seq.reset, Dma.reset, serWith, Lane.reset, Phase.holdOk, State.PhaseOk, block]
  · exact init_inv ⟨by decide, rfl, args_ok, rfl⟩ (.inr rfl)
  · exact init_inv ⟨by decide, rfl, args_ok, rfl, rfl⟩ (.inr rfl)

theorem witness_InitCommits :
    let s := initAt (.initCommit args 0#64) .clock { enab := true, divi := 8#12 } true
    s.seq.phase = .initCommit args 0#64 ∧ s.env.busy = true := ⟨rfl, rfl⟩

/-- The base configuration, with the events of a clock that answers. -/
theorem witness_InitSucceeds :
    let s := initAt .start .none { enab := false, divi := 0#12 } false
      ([.sequencer, .sequencer, .sequencer, .sequencer, .clockManager, .sequencer] ++ [])
    s.Inv ∧ s.env.rstN = true ∧ s.seq.cmdBusy = true ∧ s.seq.cmd = 0x00000001#32 ∧ s.seq.phase = .start ∧
    s.env.busy = false ∧ s.initChecks = .ok args ∧
    s.env.events = [.sequencer, .sequencer, .sequencer, .sequencer, .clockManager, .sequencer] ++ [] := by
  intro s
  refine ⟨init_inv ?_ rfl, rfl, rfl, rfl, rfl, rfl, by decide, rfl⟩
  simp [State.PhaseOk, initAt, base, State.issued, State.chan, State.reset, Seq.reset]

/-- A fair run from INIT's start, and one from its first hold, `BUSY` still 1. -/
theorem witness_InitSucceeds_fair :
    (let s := State.orderly (initAt .start .none { enab := false, divi := 0#12 } false)
     FairRun (roundRun s) rounds ∧ (roundRun s 0).Inv ∧ (roundRun s 0).cfg.clockMayFail = false ∧
     (roundRun s 0).seq.cmdBusy = true ∧ decodeCmd (roundRun s 0).seq.cmd = .init ∧
     ∀ m, 0 ≤ m → (roundRun s m).env.rstN = true) ∧
    (let s := State.orderly (initAt (.initProgram args 0#64) .clock { enab := false, divi := 0#12 } true)
     FairRun (roundRun s) rounds ∧ (roundRun s 0).Inv ∧ (roundRun s 0).cfg.clockMayFail = false ∧
     (roundRun s 0).seq.cmdBusy = true ∧ decodeCmd (roundRun s 0).seq.cmd = .init ∧
     (∀ m, 0 ≤ m → (roundRun s m).env.rstN = true) ∧ (roundRun s 0).seq.phase ≠ .start) := by
  refine ⟨⟨roundRun_fair rfl (by decide), orderly_inv (init_inv ?_ rfl) ?_, rfl, rfl, by decide,
    fun m _ => (roundRun_fixed rfl m).2⟩, ⟨roundRun_fair rfl (by decide), orderly_inv (init_inv ?_ (.inr rfl)) ?_,
    rfl, rfl, by decide, fun m _ => (roundRun_fixed rfl m).2, nofun⟩⟩
  · exact nofun
  · exact nofun
  · exact ⟨by decide, rfl, args_ok, rfl⟩
  · exact ⟨by decide, rfl, args_ok, rfl⟩

/-- V-33. -/
theorem witness_NoChannelsInitThenFini :
    let s := initAt .start .none { enab := false, divi := 0#12 } false
      ([.sequencer, .sequencer, .sequencer, .sequencer, .clockManager, .sequencer] ++
        [.host 0x008#20 4 (.write 0x00000002#32), .sequencer, .sequencer, .clockManager, .sequencer] ++ [])
      0#64 Regs.reset
    s.Inv ∧ s.env.rstN = true ∧ s.seq.cmdBusy = true ∧ s.seq.cmd = 0x00000001#32 ∧ s.seq.phase = .start ∧
    s.seq.state = .uninit ∧ s.env.busy = false ∧ s.regs.chan.ch0.count = 0#16 ∧ s.regs.chan.ch1.count = 0#16 ∧
    s.cfg.profiles.find? (fun p => p.id == s.env.profileId) = some Config.exA ∧ 400000 ≤ s.regs.freq.toNat ∧
    Config.exA.dmaMask.getLsbD s.regs.dmanum.toNat = true ∧ 2 * tailWords s.regs.freq.toNat ≤ s.cfg.symWords ∧
    2 ≤ computeDivider Config.exA.coreHz.toNat s.regs.freq.toNat ∧
    computeDivider Config.exA.coreHz.toNat s.regs.freq.toNat ≤ 4095 := by
  intro s
  refine ⟨init_inv ?_ rfl, by decide⟩
  simp [State.PhaseOk, initAt, base, State.issued, State.chan, State.reset, Seq.reset]

/-! ### FINI -/

/-- Each phase, the clock answering, not answering yet, and at the timeout. -/
theorem witness_FiniSteps :
    let at' (p : Phase) (busy : Bool) (us : BitVec 64) : State :=
      { block (seqAt .complete 2#32 p .none) Dma.reset Ser.reset with
        env := { Env.reset with busy := busy }, tim := { Tim.reset with timeUs := us } }
    let late (s : State) : Bool := s.cfg.clockMayFail && decide (0 + s.cfg.clkTimeoutUs ≤ s.tim.timeUs.toNat)
    (at' .start true 0#64).seq.phase = .start ∧ (at' .start true 0#64).seq.state ≠ .uninit ∧
    State.reset.seq.phase = .start ∧ State.reset.seq.state = .uninit ∧
    (at' .finiDisable true 0#64).seq.phase = .finiDisable ∧
    [at' (.finiRelease 0#64) true 999#64, at' (.finiRelease 0#64) true 1000#64,
     at' (.finiRelease 0#64) false 0#64].map (fun s => (s.seq.phase, s.env.busy, late s)) =
      [(.finiRelease 0#64, true, false), (.finiRelease 0#64, true, true),
       (.finiRelease 0#64, false, false)] := by decide

theorem witness_FiniLeavesQuiet :
    let s := block (seqAt .complete 2#32 (.finiRelease 0#64) .clock) Dma.reset Ser.reset [.sequencer]
    s.Inv ∧ s.env.rstN = true ∧ s.nextEvent.1 = .sequencer ∧ s.seq.cmdBusy = true ∧
    decodeCmd s.seq.cmd = .fini ∧ s.seq.state ≠ .uninit ∧ ∃ t, step s = .next t ∧ t.seq.cmdBusy = false := by
  intro s
  refine ⟨?_, rfl, rfl, rfl, by decide, by decide, exists_next _ (by decide)⟩
  apply block_inv <;>
    simp [seqAt, Seq.reset, Dma.reset, Ser.reset, Lane.reset, Phase.holdOk, Phase.stopping, State.PhaseOk, block, clockOn]
  exact ⟨by decide, ⟨rfl, rfl, rfl, ⟨rfl, rfl, rfl⟩, ⟨rfl, rfl, rfl⟩⟩⟩

/-- A fair run from FINI's start, in `IDLE`. -/
theorem witness_FiniLeavesQuiet_fair :
    let s := State.orderly (block (seqAt .idle 2#32 .start .none) Dma.reset (serWith [] 0))
    FairRun (roundRun s) rounds ∧ (roundRun s 0).Inv ∧ (roundRun s 0).cfg.clockMayFail = false ∧
    (roundRun s 0).seq.cmdBusy = true ∧ decodeCmd (roundRun s 0).seq.cmd = .fini ∧
    ∀ m, 0 ≤ m → (roundRun s m).env.rstN = true := by
  refine ⟨roundRun_fair rfl (by decide), orderly_inv ?_ nofun, rfl, rfl, by decide,
    fun m _ => (roundRun_fixed rfl m).2⟩
  apply block_inv <;>
    simp [seqAt, Seq.reset, Dma.reset, serWith, Lane.reset, Phase.holdOk, State.PhaseOk, block]

/-! ### RENDER -/

/-- RENDER at a phase, with the time and the render wait time given. -/
def renderAt (st : RState) (p : Phase) (h : Hold) (us wait : BitVec 64) : State :=
  { block (seqAt st 3#32 p h) Dma.reset (serWith [] 0) [.sequencer] with
    tim := { Tim.reset with timeUs := us, renderWait := wait } }

theorem witness_RenderHolds :
    let u := State.issued State.reset 3#32
    u.seq.phase = .start ∧ u.seq.state = .uninit ∧
    (renderAt .complete .start .none 0#64 0#64).seq.phase = .start ∧
    (renderAt .complete .start .none 0#64 0#64).seq.state ≠ .uninit ∧
    (renderAt .submitted .renderPrior .prior 0#64 0#64).seq.phase = .renderPrior ∧
    (renderAt .submitted .renderPrior .prior 0#64 0#64).seq.state = .submitted ∧
    (renderAt .complete .renderPrior .prior 0#64 0#64).seq.state ≠ .submitted ∧
    (renderAt .complete .renderLatch .latch 389#64 390#64).seq.phase = .renderLatch ∧
    (renderAt .complete .renderLatch .latch 389#64 390#64).tim.timeUs.toNat <
      (renderAt .complete .renderLatch .latch 389#64 390#64).tim.renderWait.toNat := by decide

/-- No check fails; and each of the three, the LED count one past its limit. -/
theorem witness_RenderClearsAndSnapshots :
    let s := renderAt .complete .renderLatch .latch 390#64 390#64
    s.seq.phase = .renderLatch ∧ s.tim.renderWait.toNat ≤ s.tim.timeUs.toNat ∧
    [s, State.chan s .ch0 (fun c => { c with layout := 0x00081004#32 }),
     State.chan s .ch0 (fun c => { c with count := 4096#16 }),
     State.chan s .ch0 (fun c => { c with count := 4097#16 }),
     State.chan { s with cfg := { s.cfg with symWords := 15 } } .ch0 (fun c => { c with count := 1#16 })].map
        (fun s => (decide ((s.regs.chan.get .ch0).count.toNat ≤ s.cfg.maxLeds), layoutSupported (s.regs.chan.get .ch0).layout,
          s.lat.active.get .ch0 && (s.regs.chan.get .ch0).count != 0#16,
          decide (((31 + 3 * ((s.regs.chan.get .ch0).count.toNat * 24)) / 32 +
            (31999999 + 165 * s.lat.freqL.toNat) / 32000000) * 2 ≤ s.cfg.symWords)))
      = [(true, true, true, true), (true, false, true, true), (true, true, true, true), (false, true, true, true),
         (true, true, true, false)] := by decide

/-- The first step; one pixel of channel 0 to read; and channel 0 finished. -/
theorem witness_EncoderReadsPixels :
    let s := block (seqAt .encoding 3#32 (.renderEncode [] []) .work) Dma.reset (serWith [] 0)
    let u := { block (seqAt .encoding 3#32 (.renderEncode [0#32] []) .work) Dma.reset (serWith [] 0) with
      snap := snapshots (snapshot 1#16 0x00081000#32 false) (snapshot 1#16 0x00081000#32 false) }
    (renderAt .idle .renderEnter .none 0#64 0#64).seq.phase = .renderEnter ∧
    s.seq.phase = .renderEncode [] [] ∧ ([] : List Word).length < s.snap.ch0.count.toNat ∧
    u.seq.phase = .renderEncode [0#32] [] ∧ u.snap.ch0.count.toNat ≤ [0#32].length ∧
    ([] : List Word).length < u.snap.ch1.count.toNat := by decide

theorem witness_EncoderWritesFrame :
    let s := block (seqAt .encoding 3#32 (.renderEncode [0#32] []) .work) Dma.reset (serWith [] 0)
    s.seq.phase = .renderEncode [0#32] [] ∧ s.snap.ch0.count.toNat ≤ [0#32].length ∧
    s.snap.ch1.count.toNat ≤ ([] : List Word).length ∧ 15 < oneLedGeometry.n := by decide

/-- The last sub-bits of one LED's data, the first of its padding, and the frame's last. -/
theorem witness_FrameEncoding :
    (geometry .pwm 800000#32 oneLed = oneLedGeometry) ∧ Chan.ch1.toNat < 2 ∧
    32 * 2 + 6 < 3 * (1 * 24) ∧ (32 * 2 + 6) % 3 = 1 ∧ (32 * 2 + 7) % 3 = 2 ∧ (32 * 2 + 7) < 3 * (1 * 24) ∧
    3 * (1 * 24) ≤ 32 * 2 + 8 ∧ 3 * (1 * 24) ≤ 32 * 7 + 31 ∧ 7 < 3 + 5 ∧ 31 < 32 ∧
    ([0x00FF00#32] : List Word)[(32 * 2 + 6) / 3 / 24]? = some 0x00FF00#32 := by decide

/-- A table whose largest entry is 255, the identity, and both kinds of snapshot. -/
theorem witness_EncoderProperties :
    (∀ x : Byte, Memory.entry [] x ≤ 255#8) ∧ (∀ x : Byte, Memory.entry [] x = x) ∧
    (snapshot 1#16 0x00081000#32 false).brightness = 255#8 ∧
    (snapshot 1#16 0x00081000#32 false).white = false ∧ (snapshot 1#16 0x18081000#32 false).white = true ∧
    ({ snapshot 1#16 0x18081000#32 false with brightness := 0#8 } : Snap).brightness = 0#8 ∧
    2 < (snapshot 1#16 0x00081000#32 false).bpp / 8 ∧ 3 < (snapshot 1#16 0x18081000#32 false).bpp / 8 :=
  ⟨fun x => by rw [Memory.entry_nil]; bv_omega, Memory.entry_nil, rfl, by decide, by decide, rfl, by decide, by decide⟩

theorem witness_ScaleRounds : (1#8 : Byte) ≤ 255#8 ∧ (255#8 : Byte) ≤ 255#8 := by decide

/-- A chain that is kept, and one that is not. -/
theorem witness_BuildPhase :
    let s := block (seqAt .encoding 3#32 .renderBuild .work) Dma.reset (serWith [] 0)
    let u := { s with snap := snapshots (snapshot 2#16 0x00081000#32 false) oneLed.ch1 }
    let b (s : State) : Pair BuiltFor := { ch0 := { count := s.snap.ch0.count, layout := s.snap.ch0.layout }
                                           ch1 := { count := s.snap.ch1.count, layout := s.snap.ch1.layout } }
    s.seq.phase = .renderBuild ∧ s.seq.chainValid = true ∧ s.lat.built = some (b s) ∧
    u.seq.phase = .renderBuild ∧ ¬ (u.seq.chainValid = true ∧ u.lat.built = some (b u)) := by decide

/-- The frame of one LED fits. -/
theorem oneLed_fits : FrameOk Config.default .pwm 800000#32 oneLed := ⟨by decide, by decide, by decide⟩

theorem witness_ChainIsCurrent :
    let s := block (seqAt .encoding 3#32 .renderBuild .work) Dma.reset (serWith [] 0) [.sequencer]
    s.Inv ∧ s.env.rstN = true ∧ s.nextEvent.1 = .sequencer ∧ s.seq.cmdBusy = true ∧
    s.seq.phase = .renderBuild ∧ ∃ t, step s = .next t := by
  intro s
  refine ⟨?_, rfl, rfl, by decide, rfl,
    (exists_next (fun t => t.seq.phase = .renderArm) (by decide)).imp fun _ h => h.1⟩
  apply block_inv <;>
    simp [seqAt, Seq.reset, Dma.reset, serWith, Lane.reset, Phase.holdOk, State.PhaseOk, block]
  exact ⟨by decide, oneLed_fits⟩

/-- RENDER about to arm is in the invariant. -/
theorem arming_inv : (block (seqAt .encoding 3#32 .renderArm .work) Dma.reset (serWith [] 0)).Inv := by
  apply block_inv <;>
    simp [seqAt, Seq.reset, Dma.reset, serWith, Lane.reset, Phase.holdOk, State.PhaseOk, block]
  exact ⟨by decide, oneLed_fits, by decide⟩

theorem witness_ArmsTheChain :
    let s := block (seqAt .encoding 3#32 .renderArm .work) Dma.reset (serWith [] 0)
    s.seq.phase = .renderArm ∧ s.Inv := ⟨rfl, arming_inv⟩

/-! ### WAIT and SET_GAMMA -/

/-- Both phases in each state, and the timeout. -/
theorem witness_WaitCompletes :
    let at' (st : RState) (p : Phase) (err : Bool) (us : BitVec 64) : State :=
      { block { seqAt st 4#32 p .none with xferErr := err } Dma.reset (serWith [] 0) with
        tim := { Tim.reset with timeUs := us } }
    [at' .uninit .start false 0#64, at' .idle .start false 0#64, at' .complete .start false 0#64].map
        (fun s => (s.seq.phase, s.seq.state)) =
      [(.start, .uninit), (.start, .idle), (.start, .complete)] ∧
    [at' .submitted (.waitHold 5#64) false 1000004#64, at' .submitted (.waitHold 5#64) false 1000005#64,
     at' .complete (.waitHold 5#64) true 0#64, at' .complete (.waitHold 5#64) false 0#64].map
        (fun s => (s.seq.phase, s.seq.state, s.seq.xferErr, decide (5 + s.cfg.waitTimeoutUs ≤ s.tim.timeUs.toNat))) =
      [(.waitHold 5#64, .submitted, false, false), (.waitHold 5#64, .submitted, false, true),
       (.waitHold 5#64, .complete, true, false), (.waitHold 5#64, .complete, false, false)] := by decide

theorem witness_SetGammaWritesTable :
    ({ State.reset with regs := { Regs.reset with gammaFactor := 0#32 } } : State).regs.gammaFactor = 0#32 ∧
    State.reset.regs.gammaFactor ≠ 0#32 := by decide

theorem witness_GammaGenRoundsThePower :
    (0x00000001#32 : Word) ≠ 0#32 ∧ (0xFFFFFFFF#32 : Word) ≠ 0#32 ∧ 0 < 256 ∧ 255 < 256 := by decide

theorem witness_GammaGenProperties :
    (1 ≤ 1 ∧ 1 < 65536 ∧ 65535 < 65536 ∧ 255 < 256) ∧ (0x00010001#32 : Word) ≠ 0#32 ∧
    65536 < (0x00010001#32).toNat ∧ (0x0000FFFF#32).toNat < 65536 := by decide

/-! ### The DMA scheduler -/

/-- The first and the last slot; an address of each wrong kind; and each wrong word. -/
theorem witness_BlockFetch :
    (okBlock.wellFormed = true ∧ okBlock.txfrLen.toNat % 4 = 0) ∧
    (∀ j ∈ [0, 7], (atSlot j).dma.loaded = false ∧ (atSlot j).env.rstN = true ∧
      (atSlot j).env.events = .scheduler :: [] ∧ (atSlot j).dma.active = true ∧ j < 8 ∧
      (atSlot j).dma.conblkAd.toNat = 0x00100000 + 32 * j ∧
      (List.range 8).map (fun k => (atSlot j).ram.cb.word? (8 * j + k)) = slotWords.map some) ∧
    [0x00100010, 0x000FFFE0, 0x00100100].all
      (fun a => decide (¬ (a % 32 = 0 ∧ 0x00100000 ≤ a ∧ a < 0x00100100))) = true ∧
    (0x00050142#32 : Word) &&& 0xFFE0FEAE#32 ≠ 0#32 ∧ Word.field 0x40000004#32 30 2 ≠ 0#2 ∧
    Word.field 0x00030140#32 16 5 = 3#5 ∧ (1#32 : Word) ≠ 0#32 ∧ (6#32).toNat % 4 ≠ 0 := by decide

/-- A transfer with a block loaded. -/
def moving (d : Dma) (fifo : List Word) : State :=
  { block (seqAt .submitted 0#32 .start .none) d (serWith fifo 0) with
    ram := { Rams.reset with sym := Memory.setWords [] 0 [0xA0B0C0D0#32] } }

/-- Held by another mode's DREQ and by a full FIFO; each check failing; a push; and a move inside symbol RAM, from its
first word to its last. -/
theorem witness_WordMove :
    [(loaded 0x00020140#32 0#32 0x00200000#32 4#32 0#32, 0), (loaded 0x00050140#32 0#32 0x00200000#32 4#32 0#32, 16),
     (loaded 0x00050140#32 0x00020000#32 0x00200000#32 4#32 0#32, 0),
     (loaded 0x00050140#32 0x0001FFFC#32 0x00200004#32 4#32 0#32, 0),
     (loaded 0x00050100#32 0#32 0x00200000#32 4#32 0#32, 16), (loaded 0x00050140#32 0#32 0x00200000#32 4#32 0#32, 15),
     (loaded 0x00000110#32 0#32 0x0001FFFC#32 4#32 0#32, 0)].map
      (fun p =>
        let s := moving p.1 (List.replicate p.2 0#32)
        ((s.dma.loaded && s.dma.txfrLen != 0#32 && decide (s.ser.fifo.length ≤ s.cfg.fifoDepth),
          !s.dma.ti.getLsbD 6 || s.dma.ti.field 16 5 == 0#5 ||
            (s.dma.ti.field 16 5 == 5#5 && decide (s.ser.fifo.length < s.cfg.fifoDepth))),
          (decide (s.dma.sourceAd.toNat % 4 = 0 ∧ s.dma.sourceAd.toNat < 4 * s.cfg.symWords),
          decide (s.dma.destAd.toNat % 4 = 0 ∧
            (s.dma.destAd.toNat < 4 * s.cfg.symWords ∨ s.dma.destAd.toNat = 0x00200000)),
          decide (s.dma.destAd.toNat = 0x00200000 ∧ s.ser.fifo.length = s.cfg.fifoDepth),
          s.ram.sym.word? (s.dma.sourceAd.toNat / 4)))) =
      [((true, false), (true, true, false, some 0xA0B0C0D0#32)), ((true, false), (true, true, true, some 0xA0B0C0D0#32)),
       ((true, true), (false, true, false, none)), ((true, true), (true, false, false, none)),
       ((true, true), (true, true, true, some 0xA0B0C0D0#32)), ((true, true), (true, true, false, some 0xA0B0C0D0#32)),
       ((true, true), (true, true, false, some 0xA0B0C0D0#32))] := by decide

/-- The last block and one that goes on; a transfer that has ended and one that has not. -/
theorem witness_BlockFinishAndCompletion :
    let s := moving (loaded 0x00050141#32 0x60#32 0x00200000#32 0#32 0#32) []
    let u := moving (loaded 0x00050140#32 0x38#32 0x00200000#32 0#32 0x00100020#32) []
    let c (fifo : List Word) := block (seqAt .submitted 0#32 .start .none) { Dma.reset with ended := true, int := true }
      (serWith fifo 0) [.scheduler]
    (s.dma.loaded = true ∧ s.dma.txfrLen = 0#32 ∧ s.dma.nextConbk = 0#32) ∧
    (u.dma.loaded = true ∧ u.dma.txfrLen = 0#32 ∧ u.dma.nextConbk ≠ 0#32) ∧
    (∀ f ∈ [[], [0#32]], (c f).env.rstN = true ∧ (c f).env.events = .scheduler :: [] ∧ (c f).dma.active = false ∧
      (c f).seq.state = .submitted ∧ (c f).dma.ended = true ∧ (c f).dma.int = true) ∧
    (c []).ser.fifo = [] ∧ (c []).ser.lane.ch0.left = 0 ∧ (c []).ser.lane.ch1.left = 0 ∧ (c [0#32]).ser.fifo ≠ [] := by
  decide

/-- A block with a reserved bit, and an underrun. -/
theorem witness_DmaErrorEntry :
    let s := { block (seqAt .submitted 0#32 .start .none) armed (serWith [] 0) [.scheduler] with
      ram := { Rams.reset with cb := Memory.setWords [] 0 [0x00050142#32, 0#32, 0#32, 0#32, 0#32, 0#32, 0#32, 0#32] } }
    let u := block (seqAt .submitted 0#32 .start .none) armed (serWith [] 0) [.serializer]
    (s.dma.error = false ∧ ∃ t, step s = .next t ∧ t.dma.error = true) ∧
    (u.dma.error = false ∧ ∃ t, step u = .next t ∧ t.dma.error = true) :=
  ⟨⟨rfl, exists_next _ (by decide)⟩, ⟨rfl, exists_next _ (by decide)⟩⟩

/-! ### The serializer -/

/-- A stopped clock; too few words while the scheduler runs and when it has stopped; enough words; and a lane that
holds one sub-bit. -/
theorem witness_TickShifts :
    let s (d : Dma) (fifo : List Word) (left : Nat) : State :=
      block (seqAt .submitted 0#32 .start .none) d (serWith fifo left) [.serializer]
    let off : State := { State.reset with env := { Env.reset with events := [.serializer] } }
    let runs (s : State) : Bool := s.ser.enabled && s.clk.enab && s.env.busy
    (off.env.rstN = true ∧ off.env.events = .serializer :: [] ∧ runs off = false) ∧
    [s armed [1#32] 0, s Dma.reset [1#32] 0, s armed [1#32, 2#32] 0, s armed [] 1].map
        (fun s => (s.env.rstN && runs s, s.ser.lane.ch0.left, decide (s.lat.lanes ≤ s.ser.fifo.length), s.dma.active)) =
      [(true, 0, false, true), (true, 0, false, false), (true, 0, true, true), (true, 1, false, true)] ∧
    (s armed [] 0).cfg.transferErrors = .anytime := by decide

/-- The frame of one LED is in flight in a block that has moved none of it, and in one that has moved all of it. -/
theorem oneLed_inFlight {q : Seq} {d : Dma} {left : Nat} {es : List Event}
    (h : d.nextSource oneLedGeometry = 0 ∨ d.nextSource oneLedGeometry = 16) :
    (block q d (serWith [] left) es).InFlight oneLedGeometry oneLedFrame where
  built := ⟨builtFor oneLed, rfl,
    (by decide : geometry .pwm 800000#32 (builtSnaps (builtFor oneLed)) = oneLedGeometry)⟩
  length := by decide
  stored := fun _ _ h => Memory.word?_setWords_in _ (Nat.zero_le _) h
  whole := by
    show (([] : List Word) ++ oneLedFrame.drop (d.nextSource oneLedGeometry)).length % 2 = 0
    rcases h with h | h <;> rw [h] <;> decide

/-- A tick of a running transfer, and the completion step. -/
theorem witness_WireStep :
    let s := block (seqAt .submitted 0#32 .start .none) armed (serWith [] 5) [.serializer]
    let u := block (seqAt .submitted 0#32 .start .none) { Dma.reset with ended := true, int := true } (serWith [] 0)
      [.scheduler]
    (s.Inv ∧ s.env.rstN = true ∧ s.InFlight oneLedGeometry oneLedFrame ∧ s.seq.state = .submitted ∧
      ¬ s.seq.phase.stopping ∧ s.tickNext ∧
      ∃ t, step s = .next t ∧ (t.env.rstN = true ∧ t.seq.phase = .start ∧ t.dma.error = false ∧
        t.seq.state = .submitted)) ∧
    (u.Inv ∧ u.env.rstN = true ∧ u.InFlight oneLedGeometry oneLedFrame ∧ u.seq.state = .submitted ∧
      ¬ u.seq.phase.stopping ∧ ∃ t, step u = .next t ∧ (t.env.rstN = true ∧ t.seq.phase = .start ∧
        t.dma.error = false ∧ t.seq.state ≠ .submitted)) ∧ ¬ Phase.start.stopping := by
  intro s u
  refine ⟨⟨armed_inv (by decide) (by decide), rfl, oneLed_inFlight (by decide), rfl, id, ⟨rfl, by decide, by decide⟩,
    exists_next _ (by decide)⟩, ⟨?_, rfl, oneLed_inFlight (by decide), rfl, id, exists_next _ (by decide)⟩, id⟩
  apply block_inv <;>
    simp [seqAt, Seq.reset, Dma.reset, serWith, Lane.reset, Phase.holdOk, State.PhaseOk, block]

/-- Arm, fetch, move two words, send one sub-bit; then nothing but time. -/
def wireEvents : Nat → Event
  | 0 => .sequencer
  | 1 => .scheduler
  | 2 => .scheduler
  | 3 => .scheduler
  | 4 => .serializer
  | _ + 5 => .timer

/-- The run of those events. -/
def wireRun : Nat → State
  | 0 => block (seqAt .encoding 3#32 .renderArm .work) Dma.reset (serWith [] 0)
  | n + 1 => advance (wireRun n) (wireEvents n)

theorem wireRun_timer {s : State} (h : s.env.rstN = true) :
    step (s.given .timer) = .next (advance s .timer) ∧ (advance s .timer).env.rstN = true := by
  have e : step (s.given .timer) = .next { s with tim := { s.tim with timeUs := s.tim.timeUs + 1#64 } } := by
    show (if s.env.rstN = true then turn .timer s else turnInReset .timer s) = _
    rw [if_pos h]
    rfl
  unfold advance
  rw [e]
  exact ⟨rfl, h⟩

theorem wireRun_isRun : IsRun wireRun wireEvents := by
  have rst : ∀ n, (wireRun (n + 5)).env.rstN = true := by
    intro n
    induction n with
    | zero => decide
    | succ n ih => exact (wireRun_timer ih).2
  intro n
  match n with
  | 0 => exact advance_next (by decide)
  | 1 => exact advance_next (by decide)
  | 2 => exact advance_next (by decide)
  | 3 => exact advance_next (by decide)
  | 4 => exact advance_next (by decide)
  | k + 5 => exact (wireRun_timer (rst k)).1

/-- The first tick of that run sends the first sub-bit. -/
theorem witness_WireCarriesFrame :
    let s := wireRun 0
    IsRun wireRun wireEvents ∧ s.Inv ∧ s.env.rstN = true ∧ wireEvents 0 = .sequencer ∧ s.seq.cmdBusy = true ∧
    s.seq.phase = .renderArm ∧
    (∀ q w, (encodeFrame (geometry s.lat.mode s.lat.freqL s.snap) s.snap oneLedGroups)[q]? = some w →
      s.ram.sym.word? q = some w) ∧
    (∀ m, 1 ≤ m → m ≤ 5 → (wireRun m).env.rstN = true ∧ (wireRun m).dma.error = false ∧
      ¬ (wireRun m).seq.phase.stopping ∧ ((wireRun m).seq.state = .submitted ∨ (wireRun m).seq.state = .complete)) ∧
    [4].Pairwise (· < ·) ∧ (∀ m, m ∈ [4] ↔ 1 ≤ m ∧ m < 5 ∧ ((wireRun m).given (wireEvents m)).tickNext) ∧
    Chan.ch0.toNat < s.lat.lanes ∧ [4][0]? = some 4 := by
  intro s
  refine ⟨wireRun_isRun, arming_inv, rfl, rfl, by decide, rfl, ?_, ?_, by decide, ?_, by decide, rfl⟩
  · intro q w h
    refine Memory.word?_setWords_in _ (Nat.zero_le _) ?_
    rw [show geometry s.lat.mode s.lat.freqL s.snap = oneLedGeometry from by decide] at h
    exact h
  · have all : ∀ m ∈ [1, 2, 3, 4, 5], (wireRun m).env.rstN = true ∧ (wireRun m).dma.error = false ∧
        (wireRun m).seq.phase = .start ∧ (wireRun m).seq.state = .submitted := by decide
    intro m h1 h5
    obtain ⟨a, b, c, d⟩ := all m (by simp; omega)
    exact ⟨a, b, by rw [c]; exact id, .inl d⟩
  · intro m
    have no : ∀ m ∈ [1, 2, 3], ((wireRun m).given (wireEvents m)).nextEvent.1 ≠ .serializer := by decide
    constructor
    · intro h
      obtain rfl : m = 4 := by simpa using h
      exact ⟨by decide, by decide, by decide, by decide, by decide⟩
    · rintro ⟨h1, h5, h, -, -⟩
      by_contra hm
      exact no m (by simp at hm ⊢; omega) h

/-- A transfer that completes at once. -/
def completingRun : Nat → State
  | 0 => block (seqAt .submitted 0#32 .start .none) { Dma.reset with ended := true, int := true } (serWith [] 0)
  | _ + 1 => block (seqAt .complete 0#32 .start .none) { Dma.reset with ended := true, int := true } (serWith [] 0)

theorem witness_CompletionIsReached :
    IsRun completingRun (fun _ => .scheduler) ∧ SchedulerFair completingRun (fun _ => .scheduler) ∧
    (completingRun 0).Inv ∧ (completingRun 0).completionReady = true ∧
    ∀ m, 0 ≤ m → (completingRun m).env.rstN = true ∧ ¬ (completingRun m).seq.phase.stopping := by
  refine ⟨?_, fun n _ => ⟨n, le_refl n, rfl⟩, ?_, by decide, ?_⟩
  · intro n
    cases n <;> rfl
  · apply block_inv <;>
      simp [seqAt, Seq.reset, Dma.reset, serWith, Lane.reset, Phase.holdOk, State.PhaseOk, block]
  · intro m _
    cases m <;> exact ⟨rfl, id⟩

/-- A fair run of a transfer that has just been armed, with `TRANSFER_ERRORS = never`. -/
theorem witness_CompletionIsReached_fair :
    let s := State.orderly (block (seqAt .submitted 0#32 .start .none) armed (serWith [] 0))
    FairRun (roundRun s) rounds ∧ (roundRun s 0).Inv ∧ (roundRun s 0).seq.state = .submitted ∧
    (roundRun s 0).InFlight oneLedGeometry oneLedFrame ∧ (roundRun s 0).cfg.transferErrors = .never ∧
    ∀ m, 0 ≤ m → (roundRun s m).env.rstN = true ∧ ¬ (roundRun s m).seq.phase.stopping := by
  intro s
  have f : (block (seqAt .submitted 0#32 .start .none) armed (serWith [] 0)).InFlight oneLedGeometry oneLedFrame :=
    oneLed_inFlight (by decide)
  refine ⟨roundRun_fair rfl (by decide), orderly_inv (armed_inv (by decide) (by decide)) nofun, rfl,
    ⟨f.1, f.2, f.3, f.4⟩, rfl, fun m _ => ⟨(roundRun_fixed rfl m).2, ?_⟩⟩
  rw [(roundRun_noCommand rfl rfl m).2]
  exact id

/-! ### The divider -/

theorem witness_DividerMinimises : 0 < 800000 ∧ 0 < 8 := by decide

end Sys2Proof.Tests
end

section
/-! The invariant over the updates of the sequencer: which of its parts a new phase, a completion or a changed
clock can touch. -/

namespace Sys2Proof.Machine

open State

variable {s t : State}

/-! ## What a phase says -/

/-- A phase depends on the scheduler and the serializer through quiescence only. -/
theorem State.PhaseOk.congr_quiet (h : s.PhaseOk) (hc : t.cfg = s.cfg) (hseq : t.seq = s.seq) (hl : t.lat = s.lat)
    (hsn : t.snap = s.snap) (hclk : t.clk = s.clk) (hq : s.Quiet → t.Quiet) : t.PhaseOk := by
  unfold State.PhaseOk State.chainKept at *
  rw [hseq, hc, hl, hsn, hclk]
  split at h
  case h_6 => exact ⟨h.1, h.2.1, h.2.2.1, hq h.2.2.2⟩
  case h_7 => exact ⟨h.1, h.2.1, h.2.2.1, hq h.2.2.2.1, h.2.2.2.2⟩
  all_goals exact h

/-- A phase that can stand in `SUBMITTED` can stand in `COMPLETE`. -/
theorem State.PhaseOk.submitted_complete (h : s.PhaseOk) (hs : s.seq.state = .submitted)
    (ht : t.seq.state = .complete) (hp : t.seq.phase = s.seq.phase) (hcmd : t.seq.cmd = s.seq.cmd)
    (hclk : t.clk = s.clk) (hq : s.Quiet → t.Quiet) : t.PhaseOk := by
  unfold State.PhaseOk at *
  rw [hp, hcmd, ht, hclk]
  rw [hs] at h
  split at h <;> simp_all

/-- Only RENDER stands in `ENCODING`, between its encoding and its arming. -/
theorem State.PhaseOk.encoding (h : s.PhaseOk) (he : s.seq.state = .encoding) :
    decodeCmd s.seq.cmd = .render ∧
      ((∃ g0 g1, s.seq.phase = .renderEncode g0 g1) ∨ s.seq.phase = .renderBuild ∨ s.seq.phase = .renderArm) := by
  unfold State.PhaseOk at h
  rw [he] at h
  split at h <;> simp_all

/-- Only FINI has a phase in which the outputs are already stopped. -/
theorem State.PhaseOk.stopping (h : s.PhaseOk) (hp : s.seq.phase.stopping) : decodeCmd s.seq.cmd = .fini := by
  unfold State.PhaseOk at h
  unfold Phase.stopping at hp
  split at h <;> simp_all

/-- No command but RENDER meets `ENCODING`. -/
theorem State.PhaseOk.not_encoding (h : s.PhaseOk) (hc : decodeCmd s.seq.cmd ≠ .render) : s.seq.state ≠ .encoding :=
  fun he => hc (h.encoding he).1

/-- No command but FINI meets a stopping phase. -/
theorem State.PhaseOk.not_stopping (h : s.PhaseOk) (hc : decodeCmd s.seq.cmd ≠ .fini) : ¬ s.seq.phase.stopping :=
  fun hp => hc (h.stopping hp)

/-! ## A step of a command -/

/-- The running command's next phase, and a new setting of the clock. -/
theorem State.Inv.goto (h : s.Inv) (hb : s.seq.cmdBusy = true) {p : Phase} {x : Hold} {c : Clk}
    (phase : (({ s with clk := c } : State).goto p x).PhaseOk) (hold : p.holdOk x)
    (run : s.seq.state = .uninit ∨ p.stopping ∨ ¬ s.seq.phase.stopping ∧ c = s.clk) :
    (({ s with clk := c } : State).goto p x).Inv :=
  { h with
    idlePhase := fun hn => absurd (hb.symm.trans hn) nofun
    phase := phase
    hold := hold
    uninit := fun hu => ⟨(h.uninit hu).1.congr rfl rfl, (h.uninit hu).2.1, (h.uninit hu).2.2, (h.uninit hu).2.3⟩
    running := fun hu hp => by
      obtain ⟨hs, rfl⟩ := (run.resolve_left hu).resolve_left hp
      exact h.running hu hs
    finished := fun hs ha => by
      rcases run with hu | hp | ⟨hp, -⟩
      · exact absurd (hu.symm.trans hs) nofun
      · exact .inl hp
      · exact .inr ((h.finished hs ha).resolve_left hp) }

/-- The completion of a command, and a new setting of the clock. -/
theorem State.Inv.complete (h : s.Inv) {code : RetCode} {c : Clk} (he : s.seq.state ≠ .encoding)
    (run : s.seq.state = .uninit ∨ ¬ s.seq.phase.stopping ∧ c = s.clk) :
    (({ s with clk := c } : State).complete code).Inv :=
  { h with
    idlePhase := fun _ => rfl
    phase := he
    hold := rfl
    uninit := fun hu => ⟨(h.uninit hu).1.congr rfl rfl, (h.uninit hu).2.1, (h.uninit hu).2.2, (h.uninit hu).2.3⟩
    running := fun hu _ => by
      obtain ⟨hs, rfl⟩ := run.resolve_left hu
      exact h.running hu hs
    finished := fun hs ha => by
      obtain ⟨hp, -⟩ := run.resolve_left fun hu => absurd (hu.symm.trans hs) nofun
      exact .inr ((h.finished hs ha).resolve_left hp) }

/-! ## Updates that the invariant does not see -/

/-- Counting drawn values keeps the invariant. -/
theorem State.Inv.drew (h : s.Inv) (n : Nat) : (s.drew n).Inv :=
  h.congr rfl rfl rfl h.idlePhase rfl rfl (fun _ => rfl) rfl rfl rfl rfl rfl rfl (.inl rfl) rfl rfl

/-- A frame in symbol RAM keeps the invariant. -/
theorem State.Inv.writeFrame (h : s.Inv) (g : Pair (List Word)) : (s.writeFrame g).Inv :=
  h.congr rfl rfl rfl h.idlePhase rfl rfl (fun _ => rfl) rfl rfl rfl rfl rfl rfl (.inl rfl) rfl rfl

/-- A gamma table keeps the invariant. -/
theorem State.Inv.writeGamma (h : s.Inv) (n : Chan) (table : List Byte) : (s.writeGamma n table).Inv :=
  h.congr rfl rfl rfl h.idlePhase rfl rfl (fun _ => rfl) rfl rfl rfl rfl rfl rfl (.inl rfl) rfl rfl

end Sys2Proof.Machine
end

section
/-! The commands keep the invariant. -/

namespace Sys2Proof.Machine

open State

variable {s t : State}

/-! ## The snapshots -/

/-- An inactive channel contributes nothing (R211). -/
theorem snapsOf_ok {m : Mode} {active : Pair Bool} (r : Pair ChanRegs) (h : m ≠ .pwm → active.ch1 = false) :
    SnapsOk m active (snapsOf r active) where
  inactive0 h0 := by simp [snapsOf, snapOf, h0]
  inactive1 h1 := by simp [snapsOf, snapOf, h1]
  singleLane := h

theorem snapsOf_white (r : Pair ChanRegs) (active : Pair Bool) : WhiteOk (snapsOf r active) := ⟨rfl, rfl⟩

/-- A snapshot counts no more pixels than the register (R211). -/
theorem snapOf_count_le (r : ChanRegs) (active : Bool) : (snapOf r active).count.toNat ≤ r.count.toNat := by
  cases active <;> simp [snapOf]

/-! ## INIT -/

/-- What the checks of INIT leave true where none fails (R310). -/
theorem setupChecks_none {prof : Profile} (h : s.setupChecks prof = none) :
    (s.wantedMode ≠ .pwm → s.wanted.ch1 = false) ∧ freqMin ≤ s.regs.freq.toNat ∧
      s.regs.chan.ch0.count.toNat ≤ s.cfg.maxLeds ∧ s.regs.chan.ch1.count.toNat ≤ s.cfg.maxLeds ∧
      s.wantedGeometry.n ≤ s.cfg.symWords ∧ dividerOk (s.wantedDivider prof) = true := by
  unfold State.setupChecks at h
  simp only [ite_eq_right_iff, reduceCtorEq, imp_false, ite_eq_iff, and_false, false_or, Bool.not_eq_true,
    Bool.not_eq_false', not_and, not_or, Nat.not_lt] at h
  obtain ⟨-, -, hlane, -, hfreq, -, ⟨hc0, hc1⟩, hfit, hdiv⟩ := h
  exact ⟨hlane, hfreq, hc0, hc1, hfit, hdiv⟩

/-- INIT's checks pass in `UNINIT` only, and what they give the later steps is in range (R310). -/
theorem initChecks_ok {a : InitArgs} (h : s.initChecks = .ok a) : s.seq.state = .uninit ∧ a.Ok s.cfg := by
  unfold State.initChecks at h
  split at h
  · cases h
  · refine ⟨not_not.mp ‹_›, ?_⟩
    split at h
    · cases h
    · split at h
      · cases h
      · cases h
        obtain ⟨hlane, hfreq, hc0, hc1, hfit, hdiv⟩ := setupChecks_none ‹_›
        obtain ⟨hmin, hmax⟩ := of_decide_eq_true hdiv
        exact {
          snaps := snapsOf_ok _ hlane
          frame := ⟨(snapOf_count_le _ _).trans hc0, (snapOf_count_le _ _).trans hc1, hfit⟩
          white := snapsOf_white _ _
          divi := by
            show diviMin ≤ (BitVec.ofNat 12 _).toNat
            rw [BitVec.toNat_ofNat, Nat.mod_eq_of_lt (hmax.trans_lt (by decide))]
            exact hmin
          freq := hfreq }

/-! ## The chain -/

/-- The geometry of what a chain is built for is the geometry of the snapshot (R252). -/
theorem geometry_builtFor {sn : Pair Snap} (h : WhiteOk sn) (m : Mode) (f : Word) :
    geometry m f (builtSnaps (builtFor sn)) = geometry m f sn := by
  have words0 : (builtSnaps (builtFor sn)).ch0.words = sn.ch0.words := by
    simp only [words_eq, builtSnaps, builtFor, ← h.1]
  have words1 : (builtSnaps (builtFor sn)).ch1.words = sn.ch1.words := by
    simp only [words_eq, builtSnaps, builtFor, ← h.2]
  simp only [geometry, words0, words1]

/-- The builder's words are in CB RAM once it has written them (R252). -/
theorem chainIn_setWords (cb : Memory) (m : Mode) (g : Geometry) : ChainIn (cb.setWords 0 (chainWords m g)) m g := by
  unfold ChainIn
  generalize chainWords m g = ws
  exact fun k w hk => Memory.word?_setWords_in _ (Nat.zero_le k) (by simpa using hk)

/-! ## Holds on the clock -/

/-- At a point where the clock engine may have to wait, `HOLD` is `NONE` or `CLOCK` (R198). -/
theorem clockHold_cases (s : State) (target : Bool) : s.clockHold target = .none ∨ s.clockHold target = .clock := by
  unfold State.clockHold
  split
  · exact .inl rfl
  · exact .inr rfl

/-! ## INIT's commit -/

/-- INIT's commit keeps the invariant: it makes `IDLE` of the quiescent state (R312). -/
theorem State.Inv.initCommit (h : s.Inv) {a : InitArgs} (hu : s.seq.state = .uninit) (ha : a.Ok s.cfg)
    (henab : s.clk.enab = true) (hdivi : s.clk.divi = a.divi) (hbusy : s.env.busy = true) :
    ((s.initCommit a).complete .success).Inv := by
  obtain ⟨⟨stopped, fifo, -, ⟨left0, -, -⟩, ⟨left1, -, -⟩⟩, -⟩ := h.uninit hu
  have unloaded : s.dma.loaded ≠ true := fun hl => absurd (h.loadedActive hl) (by simp [stopped])
  exact {
    h with
    idlePhase := fun _ => rfl
    phase := nofun
    hold := rfl
    activeSubmitted := fun hd => absurd hd (by simp [stopped, Dma.clearStatus])
    loadedActive := fun hl => absurd hl (by simp [unloaded, Dma.clearStatus])
    errorCause := by simp [Dma.clearStatus]
    xferErr := nofun
    left1 := by simp [Ser.enable, Lane.drive, left0, left1]
    drive0 := fun (ho : (outputEnables a.mode a.active).ch0 = false) => by simp [Ser.enable, Lane.drive, ho]
    drive1 := fun (ho : (outputEnables a.mode a.active).ch1 = false) => by simp [Ser.enable, Lane.drive, ho]
    white := ha.white
    uninit := nofun
    lanes := fun _ => rfl
    snaps := fun _ => ha.snaps
    freq := fun _ => ha.freq
    running := fun _ _ => ⟨henab, hbusy, by simpa [hdivi] using ha.divi, rfl⟩
    chain := fun _ => ⟨builtFor a.snap, rfl, by
      have hg := geometry_builtFor ha.white a.mode a.freq
      constructor
      · simp only [builtGeometry, complete_lat, initCommit_lat, complete_ram, initCommit_ram, hg]
        exact chainIn_setWords _ _ _
      · simp only [builtGeometry, complete_lat, initCommit_lat, complete_cfg, initCommit_cfg, hg]
        exact ha.frame.fits⟩
    armed := fun hd => absurd hd (by simp [stopped, Dma.clearStatus])
    finished := nofun
    drained := fun _ => ⟨by simp [Ser.enable, fifo], by simp [Ser.enable, Lane.drive, left0],
      by simp [Ser.enable, Lane.drive, left1]⟩ }

/-- INIT's steps keep the invariant (R310, R312). -/
theorem State.Inv.execInit (h : s.Inv) (hb : s.seq.cmdBusy = true) (hc : decodeCmd s.seq.cmd = .init)
    (ht : execInit s = .next t) : t.Inv := by
  have phase := h.phase
  have calm : ¬ s.seq.phase.stopping := phase.not_stopping (by simp [hc])
  have ready : s.seq.state ≠ .encoding := phase.not_encoding (by simp [hc])
  unfold State.PhaseOk at phase
  rcases execInit_cases ht with ⟨a, hp, rfl⟩ | ⟨a, t0, hp, k⟩ | ⟨a, hp, rfl⟩ | ⟨a, t0, hp, k⟩ | ⟨code, -, rfl⟩ |
    ⟨a, hok, rfl⟩
  · obtain ⟨-, hu, ha⟩ := hp ▸ phase
    exact h.goto hb ⟨hc, hu, ha, rfl⟩ (clockHold_cases s false) (.inl hu)
  · obtain ⟨-, hu, ha, henab⟩ := hp ▸ phase
    rcases k with ⟨-, rfl⟩ | ⟨-, -, rfl⟩ | ⟨-, -, rfl⟩
    · exact h
    · exact h.complete ready (.inl hu)
    · exact h.goto hb ⟨hc, hu, ha, henab, rfl⟩ rfl (.inl hu)
  · obtain ⟨-, hu, ha, -, hdivi⟩ := hp ▸ phase
    exact h.goto hb ⟨hc, hu, ha, rfl, hdivi⟩ (clockHold_cases s true) (.inl hu)
  · obtain ⟨-, hu, ha, henab, hdivi⟩ := hp ▸ phase
    rcases k with ⟨-, rfl⟩ | ⟨-, -, rfl⟩ | ⟨-, hbusy, rfl⟩
    · exact h
    · exact h.complete ready (.inl hu)
    · exact h.initCommit hu ha henab hdivi hbusy
  · exact h.complete ready (.inr ⟨calm, rfl⟩)
  · obtain ⟨hu, ha⟩ := initChecks_ok hok
    exact h.goto hb ⟨hc, hu, ha⟩ rfl (.inl hu)

/-! ## FINI -/

/-- A stopped serializer is quiet, whatever it held (R334). -/
theorem finiStop_quiet (s : State) : s.finiStop.Quiet := ⟨rfl, rfl, rfl, ⟨rfl, rfl, rfl⟩, ⟨rfl, rfl, rfl⟩⟩

/-- FINI's stop keeps the invariant (R334 step 2). -/
theorem State.Inv.finiStop (h : s.Inv) (hb : s.seq.cmdBusy = true) (hc : decodeCmd s.seq.cmd = .fini)
    (hu : s.seq.state ≠ .uninit) (he : s.seq.state ≠ .encoding) : (s.finiStop.goto .finiDisable .none).Inv :=
  { h with
    idlePhase := fun hn => absurd (hb.symm.trans hn) nofun
    phase := ⟨hc, hu, he, (finiStop_quiet s).congr rfl rfl⟩
    hold := rfl
    activeSubmitted := nofun
    loadedActive := nofun
    errorCause := ⟨nofun, fun k => absurd rfl k⟩
    fifoBound := Nat.zero_le _
    left0 := Nat.zero_le _
    left1 := (ite_self 0).symm
    drive0 := fun _ => rfl
    drive1 := fun _ => rfl
    uninit := fun k => absurd k hu
    running := fun _ k => absurd trivial k
    armed := nofun
    finished := fun _ _ => .inl trivial
    drained := fun _ => ⟨rfl, rfl, rfl⟩ }

/-- FINI's release makes the quiescent state with nothing held (R334 step 4, R375). -/
theorem State.Inv.finiRelease (h : s.Inv) (hq : s.Quiet) : (s.finiRelease.complete .success).Inv :=
  have idle : s.dma.active ≠ true := by simp [hq.dmaStopped]
  { h with
    idlePhase := fun _ => rfl
    phase := nofun
    hold := rfl
    activeSubmitted := fun k => absurd k idle
    xferErr := nofun
    left1 := hq.lane1.1.trans (by simp [hq.lane0.1])
    uninit := fun _ => ⟨hq.congr rfl rfl, rfl, rfl, rfl⟩
    lanes := fun k => absurd rfl k
    snaps := fun k => absurd rfl k
    freq := fun k => absurd rfl k
    running := fun k => absurd rfl k
    chain := nofun
    armed := fun k => absurd k idle
    finished := nofun
    drained := fun _ => ⟨hq.fifoEmpty, hq.lane0.1, hq.lane1.1⟩ }

/-- FINI's steps keep the invariant (R334). -/
theorem State.Inv.execFini (h : s.Inv) (hb : s.seq.cmdBusy = true) (hc : decodeCmd s.seq.cmd = .fini)
    (ht : execFini s = .next t) : t.Inv := by
  have phase := h.phase
  have ready : s.seq.state ≠ .encoding := phase.not_encoding (by simp [hc])
  unfold State.PhaseOk at phase
  rcases execFini_cases ht with ⟨hp, rfl⟩ | ⟨t0, hp, k⟩ | ⟨hu, rfl⟩ | ⟨hu, rfl⟩
  · obtain ⟨-, hu, he, hq⟩ := hp ▸ phase
    exact h.goto hb ⟨hc, hu, he, hq.congr rfl rfl, rfl⟩ (clockHold_cases s false) (.inr (.inl trivial))
  · obtain ⟨-, -, -, hq, -⟩ := hp ▸ phase
    rcases k with ⟨-, rfl⟩ | ⟨-, rfl⟩
    · exact h
    · exact h.finiRelease hq
  · exact h.complete ready (.inl hu)
  · exact h.finiStop hb hc hu ready

/-! ## RENDER -/

/-- The frame fits where RENDER's checks pass (R320 step 6). -/
theorem renderCheck_none (h : s.renderCheck = none) : FrameOk s.cfg s.lat.mode s.lat.freqL s.snap := by
  unfold State.renderCheck at h
  dsimp only at h
  split at h
  · cases h
  · split at h
    · cases h
    · split at h
      · cases h
      · exact ⟨by omega, by omega, by omega⟩

/-- RENDER's clear step keeps the invariant (R320 steps 4 and 5). -/
theorem State.Inv.renderClear (h : s.Inv) (hp : s.seq.phase = .renderLatch) : s.renderClear.Inv := by
  have phase := h.phase
  unfold State.PhaseOk at phase
  obtain ⟨hc, hs⟩ := hp ▸ phase
  have live : s.seq.state ≠ .uninit := by rcases hs with k | k <;> simp [k]
  have past : s.seq.state ≠ .submitted := by rcases hs with k | k <;> simp [k]
  have idle : s.dma.active ≠ true := fun k => past (h.activeSubmitted k)
  exact {
    h with
    phase := by
      unfold State.PhaseOk
      rw [renderClear_seq, hp]
      exact ⟨hc, .inl rfl⟩
    activeSubmitted := fun k => absurd k idle
    errorCause := ⟨nofun, fun k => absurd rfl k⟩
    xferErr := nofun
    white := snapsOf_white _ _
    uninit := nofun
    lanes := fun _ => h.lanes live
    snaps := fun _ => snapsOf_ok _ (h.snaps live).singleLane
    freq := fun _ => h.freq live
    running := fun _ k => h.running live k
    armed := fun k => absurd k idle
    finished := nofun
    drained := fun _ => h.drained past }

/-- RENDER's entry into `ENCODING` keeps the invariant (R320 step 7). -/
theorem State.Inv.renderEnter (h : s.Inv) (hb : s.seq.cmdBusy = true) (hp : s.seq.phase = .renderEnter) :
    (({ s with seq := { s.seq with state := .encoding } } : State).goto (.renderEncode [] []) .work).Inv := by
  have phase := h.phase
  unfold State.PhaseOk at phase
  obtain ⟨hc, hs, hf⟩ := hp ▸ phase
  have live : s.seq.state ≠ .uninit := by simp [hs]
  have past : s.seq.state ≠ .submitted := by simp [hs]
  have idle : s.dma.active ≠ true := fun k => past (h.activeSubmitted k)
  exact {
    h with
    idlePhase := fun hn => absurd (hb.symm.trans hn) nofun
    phase := ⟨hc, rfl, hf, Nat.zero_le _, Nat.zero_le _⟩
    hold := rfl
    activeSubmitted := fun k => absurd k idle
    xferErr := fun k => absurd (hs.symm.trans (h.xferErr k)) nofun
    uninit := nofun
    lanes := fun _ => h.lanes live
    snaps := fun _ => h.snaps live
    freq := fun _ => h.freq live
    running := fun _ _ => h.running live (by rw [hp]; exact id)
    finished := nofun
    drained := fun _ => h.drained past }

/-- The encoder's steps keep the invariant (R225). -/
theorem State.Inv.encodeStep (h : s.Inv) (hb : s.seq.cmdBusy = true) {g0 g1 : List Word}
    (hp : s.seq.phase = .renderEncode g0 g1) : (s.encodeStep g0 g1).Inv := by
  have phase := h.phase
  unfold State.PhaseOk at phase
  obtain ⟨hc, hs, hf, h0, h1⟩ := hp ▸ phase
  have calm : ¬ s.seq.phase.stopping := by rw [hp]; exact id
  rcases encodeStep_cases (s := s) g0 g1 with ⟨hlt, k⟩ | ⟨-, hlt, k⟩ | ⟨-, -, k⟩ <;> rw [k]
  · exact (h.drew 1).goto hb ⟨hc, hs, hf, by simpa using hlt, h1⟩ rfl (.inr (.inr ⟨calm, rfl⟩))
  · exact (h.drew 1).goto hb ⟨hc, hs, hf, h0, by simpa using hlt⟩ rfl (.inr (.inr ⟨calm, rfl⟩))
  · exact (h.writeFrame _).goto hb ⟨hc, hs, hf⟩ rfl (.inr (.inr ⟨calm, rfl⟩))

/-- Building the chain keeps the invariant (R252). -/
theorem State.Inv.buildChain (h : s.Inv) (hp : s.seq.phase = .renderBuild) :
    (s.buildChain s.lat.mode (geometry s.lat.mode s.lat.freqL s.snap)).Inv := by
  have phase := h.phase
  unfold State.PhaseOk at phase
  obtain ⟨hc, hs, hf⟩ := hp ▸ phase
  have idle : s.dma.active ≠ true := fun k => absurd (hs.symm.trans (h.activeSubmitted k)) nofun
  have hg := geometry_builtFor h.white s.lat.mode s.lat.freqL
  exact {
    h with
    phase := by
      unfold State.PhaseOk
      rw [buildChain_seq, hp]
      exact ⟨hc, hs, hf⟩
    uninit := fun k => absurd (hs.symm.trans k) nofun
    chain := fun _ => ⟨builtFor s.snap, rfl, by
      simp only [builtGeometry, buildChain_lat, buildChain_ram, buildChain_cfg, hg]
      exact ⟨chainIn_setWords _ _ _, hf.fits⟩⟩
    armed := fun k => absurd k idle }

/-- RENDER's build phase keeps the invariant, and leaves a chain for the snapshot (R254). -/
theorem State.Inv.buildPhase (h : s.Inv) (hb : s.seq.cmdBusy = true) (hp : s.seq.phase = .renderBuild) :
    (s.buildPhase.goto .renderArm .work).Inv := by
  have phase := h.phase
  unfold State.PhaseOk at phase
  obtain ⟨hc, hs, hf⟩ := hp ▸ phase
  have calm : ¬ s.seq.phase.stopping := by rw [hp]; exact id
  rcases buildPhase_cases (s := s) with ⟨hk, k⟩ | ⟨-, k⟩ <;> rw [k]
  · exact h.goto hb ⟨hc, hs, hf, hk⟩ rfl (.inr (.inr ⟨calm, rfl⟩))
  · exact (h.buildChain hp).goto hb ⟨hc, hs, hf, by simp [State.chainKept]⟩ rfl (.inr (.inr ⟨calm, rfl⟩))

/-- Arming keeps the invariant: the scheduler is at the head of a valid chain (R262, R322). -/
theorem State.Inv.renderArm (h : s.Inv) (hp : s.seq.phase = .renderArm) : (s.renderArm.complete .success).Inv := by
  have phase := h.phase
  unfold State.PhaseOk at phase
  obtain ⟨-, hs, -, hkept⟩ := hp ▸ phase
  have live : s.seq.state ≠ .uninit := by simp [hs]
  have valid : s.seq.chainValid = true := (Bool.and_eq_true_iff.mp hkept).1
  exact {
    h with
    idlePhase := fun _ => rfl
    phase := nofun
    hold := rfl
    activeSubmitted := fun _ => rfl
    loadedActive := fun _ => rfl
    errorCause := ⟨nofun, fun k => absurd rfl k⟩
    xferErr := fun k => absurd (hs.symm.trans (h.xferErr k)) nofun
    uninit := nofun
    lanes := fun _ => h.lanes live
    snaps := fun _ => h.snaps live
    freq := fun _ => h.freq live
    running := fun _ _ => h.running live (by rw [hp]; exact id)
    armed := fun _ => ⟨valid, fun _ _ => .inl ⟨rfl, nofun⟩⟩
    finished := fun _ => nofun
    drained := fun k => absurd rfl k }

/-- The encoder's steps stay in the encoding or go on to the build phase (R225). -/
theorem encodeStep_phase (g0 g1 : List Word) : (s.encodeStep g0 g1).seq.phase ≠ .renderPrior := by
  rcases encodeStep_cases (s := s) g0 g1 with ⟨-, k⟩ | ⟨-, -, k⟩ | ⟨-, -, k⟩ <;> rw [k] <;> nofun

/-- A RENDER under way in `ENCODING` does not start again (R320). -/
theorem execRender_encoding (h : s.PhaseOk) (he : s.seq.state = .encoding) :
    execRender s ≠ .next (s.goto .renderPrior .prior) := by
  intro k
  unfold execRender at k
  obtain ⟨-, ⟨g0, g1, hp⟩ | hp | hp⟩ := h.encoding he <;> rw [hp] at k <;>
    have e := congrArg (fun u : State => u.seq.phase) (Host.Outcome.next.inj k)
  · exact encodeStep_phase g0 g1 e
  · exact nomatch e
  · exact nomatch e

/-- RENDER's steps keep the invariant (R320 to R322). -/
theorem State.Inv.execRender (h : s.Inv) (hb : s.seq.cmdBusy = true) (hc : decodeCmd s.seq.cmd = .render)
    (ht : execRender s = .next t) : t.Inv := by
  have calm : ¬ s.seq.phase.stopping := h.phase.not_stopping (by simp [hc])
  have phase := h.phase
  unfold State.PhaseOk at phase
  rcases execRender_cases ht with ⟨hp, k⟩ | ⟨hp, k⟩ | ⟨hp, rfl⟩ | ⟨g0, g1, hp, rfl⟩ | ⟨hp, rfl⟩ | ⟨hp, rfl⟩ |
    ⟨hu, rfl⟩ | ⟨hu, rfl⟩
  · obtain ⟨-, hu, he⟩ := hp ▸ phase
    rcases k with ⟨-, rfl⟩ | ⟨hs, rfl⟩
    · exact h
    · have past : s.seq.state = .idle ∨ s.seq.state = .complete := by
        cases hst : s.seq.state <;> simp_all
      exact h.goto hb ⟨hc, past⟩ rfl (.inr (.inr ⟨calm, rfl⟩))
  · rcases k with ⟨-, rfl⟩ | ⟨code, -, -, rfl⟩ | ⟨-, hok, rfl⟩
    · exact h
    · exact (h.renderClear hp).complete nofun (.inr ⟨calm, rfl⟩)
    · exact (h.renderClear hp).goto hb ⟨hc, rfl, renderCheck_none hok⟩ rfl (.inr (.inr ⟨calm, rfl⟩))
  · exact h.renderEnter hb hp
  · exact h.encodeStep hb hp
  · exact h.buildPhase hb hp
  · exact h.renderArm hp
  · exact h.complete (by simp [hu]) (.inl hu)
  · have he : s.seq.state ≠ .encoding := fun he => execRender_encoding h.phase he ht
    exact h.goto hb ⟨hc, hu, he⟩ rfl (.inr (.inr ⟨calm, rfl⟩))

/-! ## WAIT, SET_GAMMA and malformed words -/

/-- WAIT's steps keep the invariant (R331). -/
theorem State.Inv.execWait (h : s.Inv) (hb : s.seq.cmdBusy = true) (hc : decodeCmd s.seq.cmd = .wait)
    (ht : execWait s = .next t) : t.Inv := by
  have calm : ¬ s.seq.phase.stopping := h.phase.not_stopping (by simp [hc])
  have ready : s.seq.state ≠ .encoding := h.phase.not_encoding (by simp [hc])
  rcases execWait_cases ht with ⟨t0, -, ⟨-, rfl⟩ | ⟨-, -, rfl⟩ | ⟨-, -, -, rfl⟩⟩ | ⟨-, rfl⟩ | ⟨-, rfl⟩ | ⟨hu, hi, rfl⟩
  · exact h
  · exact h.complete ready (.inr ⟨calm, rfl⟩)
  · exact h.complete ready (.inr ⟨calm, rfl⟩)
  · exact h.complete ready (.inr ⟨calm, rfl⟩)
  · exact h.complete ready (.inr ⟨calm, rfl⟩)
  · have past : s.seq.state = .submitted ∨ s.seq.state = .complete := by
      cases hst : s.seq.state <;> simp_all
    exact h.goto hb ⟨hc, past⟩ rfl (.inr (.inr ⟨calm, rfl⟩))

/-- SET_GAMMA's step keeps the invariant (R330). -/
theorem State.Inv.execSetGamma (h : s.Inv) {ch : Chan} (hc : decodeCmd s.seq.cmd = .setGamma ch)
    (ht : execSetGamma ch s = .next t) : t.Inv := by
  have calm : ¬ s.seq.phase.stopping := h.phase.not_stopping (by simp [hc])
  have ready : s.seq.state ≠ .encoding := h.phase.not_encoding (by simp [hc])
  rcases execSetGamma_cases ht with ⟨-, rfl⟩ | ⟨-, rfl⟩
  · exact h.complete ready (.inr ⟨calm, rfl⟩)
  · exact (h.writeGamma _ _).complete ready (.inr ⟨calm, rfl⟩)

/-- The sequencer's turn keeps the invariant (R300). -/
theorem State.Inv.sequencerTurn (h : s.Inv) (ht : sequencerTurn s = .next t) : t.Inv := by
  rcases sequencerTurn_cases ht with ⟨hb, k⟩ | ⟨-, rfl⟩
  · cases hc : decodeCmd s.seq.cmd with
    | init => exact h.execInit hb hc (by rwa [hc] at k)
    | fini => exact h.execFini hb hc (by rwa [hc] at k)
    | render => exact h.execRender hb hc (by rwa [hc] at k)
    | wait => exact h.execWait hb hc (by rwa [hc] at k)
    | setGamma ch => exact h.execSetGamma hc (by rwa [hc] at k)
    | cmdMalformed op ch rsvd =>
      rw [hc] at k
      obtain rfl := Host.Outcome.next.inj k
      exact h.complete (h.phase.not_encoding (by simp [hc])) (.inr ⟨h.phase.not_stopping (by simp [hc]), rfl⟩)
    | cb b => exact absurd hc (decodeCmd_ne_cb _ b)
  · exact h

end Sys2Proof.Machine
end

section
/-! The scheduler and the serializer keep the invariant. -/

namespace Sys2Proof.Machine

open State

variable {s t : State}

/-! ## The DMA error entry -/

/-- A DMA error raised by a running scheduler or under it keeps the invariant (R362). -/
theorem State.Inv.raiseDmaError (h : s.Inv) (ha : s.dma.active = true) {c : DmaCause} (hc : c ≠ .none) :
    (s.raiseDmaError c).Inv := by
  have sub := h.activeSubmitted ha
  have live : s.seq.state ≠ .uninit := by simp [sub]
  have done : (s.raiseDmaError c).seq.state = .complete := if_pos sub
  exact {
    h with
    phase := h.phase.submitted_complete sub done rfl rfl rfl fun hq => absurd (hq.dmaStopped.symm.trans ha) nofun
    activeSubmitted := nofun
    loadedActive := nofun
    errorCause := ⟨fun _ => hc, fun _ => rfl⟩
    xferErr := fun _ => done
    fifoBound := Nat.zero_le _
    left0 := Nat.zero_le _
    left1 := (ite_self 0).symm
    drive0 := fun (ho : s.ser.lane.ch0.oe = false) => by simp [Lane.flush, Lane.drive, ho]
    drive1 := fun (ho : s.ser.lane.ch1.oe = false) => by simp [Lane.flush, Lane.drive, ho]
    uninit := fun k => absurd (done.symm.trans k) nofun
    lanes := fun _ => h.lanes live
    snaps := fun _ => h.snaps live
    freq := fun _ => h.freq live
    running := fun _ hp => h.running live hp
    armed := nofun
    finished := fun k => absurd (done.symm.trans k) nofun
    drained := fun _ => ⟨rfl, rfl, rfl⟩ }

/-! ## The scheduler's place in the chain -/

/-- A running scheduler's chain: what it was built for, that it is in CB RAM and fits, and where in it the scheduler
is. -/
theorem State.Inv.inChain (h : s.Inv) (ha : s.dma.active = true) :
    ∃ b, s.lat.built = some b ∧ ChainIn s.ram.cb s.lat.mode (s.builtGeometry b) ∧
      (s.builtGeometry b).n ≤ s.cfg.symWords ∧ s.dma.InChain s.lat.mode (s.builtGeometry b) := by
  obtain ⟨valid, place⟩ := h.armed ha
  obtain ⟨b, hb, hin, hn⟩ := h.chain valid
  exact ⟨b, hb, hin, hn, place b hb⟩

/-- `SYM_WORDS ≤ 65536` (R10). -/
theorem State.Inv.symWords_le (h : s.Inv) : s.cfg.symWords ≤ 65536 := by
  obtain ⟨-, -, -, hsym, -⟩ := of_decide_eq_true h.cfgOk
  exact hsym

/-- A word moved: source up, length down, the end where it was (R271). -/
theorem Dma.LoadedFrom.advance {d : Dma} {b : CtrlBlock} {stop : Nat} (h : d.LoadedFrom b stop)
    (hi : b.ti.srcInc = true) (hd : b.ti.destInc = false) (hlen : d.txfrLen ≠ 0#32)
    (hsrc : d.sourceAd.toNat < 262144) : d.advance.LoadedFrom b stop := by
  obtain ⟨ti, dest, next, ends, source, length⟩ := h
  have pos : d.txfrLen.toNat ≠ 0 := fun k => hlen (BitVec.eq_of_toNat_eq k)
  have up : (d.sourceAd + 4#32).toNat = d.sourceAd.toNat + 4 := by
    rw [BitVec.toNat_add]
    exact Nat.mod_eq_of_lt (by simp only [BitVec.toNat_ofNat]; omega)
  have down : (d.txfrLen - 4#32).toNat = d.txfrLen.toNat - 4 :=
    BitVec.toNat_sub_of_le (BitVec.le_def.mpr (by simp only [BitVec.toNat_ofNat]; omega))
  have fields : tiFields d.ti = b.ti := by rw [ti, tiFields_tiWord]
  constructor
  · exact ti
  · simpa [Dma.advance, fields, hd] using dest
  · exact next
  · simp only [Dma.advance, fields, hi, if_true, up, down]; omega
  · simp only [Dma.advance, fields, hi, if_true, up]; omega
  · simp only [Dma.advance, down]; omega

/-- A moved word leaves the scheduler in its block (R271). -/
theorem Dma.InChain.advance {d : Dma} {m : Mode} {g : Geometry} (h : d.InChain m g) (hlen : d.txfrLen ≠ 0#32)
    (hsrc : d.sourceAd.toNat < 262144) : d.advance.InChain m g := by
  rcases h with ⟨hc, hl⟩ | ⟨hc, hl⟩
  · exact .inl ⟨hc, fun k => (hl k).advance rfl rfl hlen hsrc⟩
  · exact .inr ⟨hc, fun k => (hl k).advance rfl rfl hlen hsrc⟩

/-- Both blocks of a chain write to the FIFO (R252). -/
theorem Dma.InChain.destAd {d : Dma} {m : Mode} {g : Geometry} (h : d.InChain m g) (hl : d.loaded = true) :
    d.destAd = fifoData := by
  rcases h with ⟨-, k⟩ | ⟨-, k⟩ <;> exact (k hl).dest

/-- The scheduler's registers and the FIFO change in a running transfer. -/
theorem State.Inv.transfer (h : s.Inv) (ha : s.dma.active = true) {d : Dma} {f : List Word}
    (loaded : d.loaded = true → d.active = true) (error : d.error = s.dma.error)
    (cause : d.errCause = s.dma.errCause) (room : f.length ≤ s.cfg.fifoDepth)
    (place : d.active = true → ∀ b, s.lat.built = some b → d.InChain s.lat.mode (s.builtGeometry b))
    (stop : d.active = false → d.ended = true ∧ d.int = true) :
    ({ s with dma := d, ser := { s.ser with fifo := f } } : State).Inv :=
  have sub := h.activeSubmitted ha
  { h with
    phase := h.phase.congr_quiet rfl rfl rfl rfl rfl fun hq => absurd (hq.dmaStopped.symm.trans ha) nofun
    activeSubmitted := fun _ => sub
    loadedActive := loaded
    errorCause := by rw [error, cause]; exact h.errorCause
    fifoBound := room
    uninit := fun k => absurd (sub.symm.trans k) nofun
    armed := fun k => ⟨(h.armed ha).1, place k⟩
    finished := fun _ k => .inr (stop k)
    drained := fun k => absurd sub k }

/-! ## Move and finish -/

/-- The move step keeps the invariant (R271). -/
theorem State.Inv.moveWord (h : s.Inv) (ha : s.dma.active = true) (hl : s.dma.loaded = true)
    (hlen : s.dma.txfrLen ≠ 0#32) : s.moveWord.Inv := by
  obtain ⟨b, hb, -, -, place⟩ := h.inChain ha
  rcases moveWord_cases (s := s) with ⟨-, k⟩ | ⟨-, -, k⟩ | ⟨-, -, -, -, k⟩ | ⟨hsrc, -, -, hroom, k⟩ | ⟨-, -, hdest, -⟩
  · exact k ▸ h.raiseDmaError ha nofun
  · exact k ▸ h.raiseDmaError ha nofun
  · exact k ▸ h.raiseDmaError ha nofun
  · rw [k]
    have low : s.dma.sourceAd.toNat < 262144 := by
      obtain ⟨-, hlt⟩ := of_decide_eq_true hsrc
      have := h.symWords_le
      omega
    refine (h.drew 1).transfer ha (fun _ => ha) rfl rfl (by simpa using hroom) (fun _ b' hb' => ?_)
      fun k => absurd (k.symm.trans ha) nofun
    obtain rfl := Option.some.inj (hb.symm.trans hb')
    exact place.advance hlen low
  · exact absurd (place.destAd hl) hdest

/-- The finish step keeps the invariant: the data block goes on to the tail block, the tail block ends the transfer
with `END` and `INT` set (R272, R273). -/
theorem State.Inv.finishBlock (h : s.Inv) (ha : s.dma.active = true) (hl : s.dma.loaded = true) :
    s.finishBlock.Inv := by
  obtain ⟨b, hb, -, -, place⟩ := h.inChain ha
  rcases finishBlock_cases (s := s) with ⟨hn, k⟩ | ⟨hn, k⟩ <;> rw [k] <;>
    rcases place with ⟨-, at0⟩ | ⟨-, at1⟩
  · exact absurd ((at0 hl).next.symm.trans hn) (by decide : ¬ cbBase + 0x20#32 = 0#32)
  · refine h.transfer ha nofun rfl rfl h.fifoBound nofun fun _ => ⟨rfl, ?_⟩
    simp [(at1 hl).ti, tailBlock, tailTi]
  · exact h.transfer ha nofun rfl rfl h.fifoBound (fun _ _ _ => .inr ⟨(at0 hl).next, nofun⟩)
      fun k => absurd (k.symm.trans ha) nofun
  · exact absurd (at1 hl).next hn

/-- A loaded block's step keeps the invariant (R260). -/
theorem State.Inv.runLoaded (h : s.Inv) (ha : s.dma.active = true) (hl : s.dma.loaded = true) : s.runLoaded.Inv := by
  rcases runLoaded_cases (s := s) with ⟨-, k⟩ | ⟨hlen, -, k⟩ | ⟨-, -, k⟩ <;> rw [k]
  · exact h.finishBlock ha hl
  · exact h.moveWord ha hl hlen
  · exact h

/-! ## Fetch -/

/-- A fetch finds the block whose words stand at `DMA_CONBLK_AD` (R264). -/
theorem fetchBlock_eq {b : CtrlBlock} (h : ∀ n w, (encode (.cb b))[n]? = some w →
    s.ram.cb.word? ((s.dma.conblkAd - cbBase).toNat / 4 + n) = some w) : s.fetchBlock = .ok (.cb b) := by
  have word (n : Nat) {w : Word} (hn : (encode (.cb b))[n]? = some w) : s.blockWord n = w := by
    unfold State.blockWord
    rw [h n w hn]
    rfl
  unfold State.fetchBlock
  rw [word 0 rfl, word 1 rfl, word 2 rfl, word 3 rfl, word 4 rfl, word 5 rfl, word 6 rfl, word 7 rfl]
  simp [decodeBlock]

/-- At the head of a chain, a fetch finds the data block (R252). -/
theorem fetchBlock_data {m : Mode} {g : Geometry} (h : ChainIn s.ram.cb m g) (hc : s.dma.conblkAd = cbBase) :
    s.fetchBlock = .ok (.cb (dataBlock m g)) := by
  refine fetchBlock_eq fun n w hn => ?_
  have hlt : n < 8 := (List.getElem?_eq_some_iff.mp hn).1
  rw [hc, show (cbBase - cbBase).toNat / 4 + n = n by simp]
  exact h n w (by rw [chainWords, List.getElem?_append_left hlt]; exact hn)

/-- At its second block, the tail block (R252). -/
theorem fetchBlock_tail {m : Mode} {g : Geometry} (h : ChainIn s.ram.cb m g)
    (hc : s.dma.conblkAd = cbBase + 0x20#32) : s.fetchBlock = .ok (.cb (tailBlock m g)) := by
  refine fetchBlock_eq fun n w hn => ?_
  have hoff : (cbBase + 0x20#32 - cbBase).toNat / 4 = 8 := by decide
  rw [hc, hoff]
  refine h (8 + n) w ?_
  have hlen : (encode (.cb (dataBlock m g))).length = 8 := rfl
  rw [chainWords, List.getElem?_append_right (by omega), hlen, Nat.add_sub_cancel_left]
  exact hn

/-- A fetch that succeeds gives the block read (R264). -/
theorem fetch_ok_fetchBlock {i : Instr} (h : s.fetch = .ok i) : s.fetchBlock = .ok i := by
  unfold State.fetch at h
  split at h
  · cases h
  · split at h
    · cases h; assumption
    all_goals cases h

/-- A fetch that fails has a cause (R265, R163). -/
theorem fetch_error {c : DmaCause} (h : s.fetch = .error c) : c ≠ .none := by
  unfold State.fetch at h
  split at h
  · cases h; nofun
  · split at h <;> cases h <;> nofun

/-- Loading the chain's block at `DMA_CONBLK_AD` leaves the scheduler in the chain, its words all still to move
(R264). -/
theorem Dma.InChain.load {d : Dma} {m : Mode} {g : Geometry} {b : CtrlBlock} (place : d.InChain m g)
    (fits : g.n ≤ 65536) (data : d.conblkAd = cbBase → b = dataBlock m g)
    (tail : d.conblkAd = cbBase + 0x20#32 → b = tailBlock m g) :
    ({ d with
        ti := tiWord b.ti, sourceAd := b.sourceAd, destAd := b.destAd, txfrLen := b.txfrLen,
        nextConbk := b.nextConbk, loaded := true } : Dma).InChain m g := by
  have parts : 4 * (g.l * g.d) + 4 * (g.l * g.t) = 4 * g.n := by unfold Geometry.n; ring
  have size (k : Nat) (hk : 4 * (g.l * k) ≤ 4 * g.n) : (BitVec.ofNat 32 (4 * g.l * k)).toNat = 4 * (g.l * k) := by
    rw [BitVec.toNat_ofNat, Nat.mul_assoc]
    exact Nat.mod_eq_of_lt (by omega)
  have dsize := size g.d (by omega)
  have tsize := size g.t (by omega)
  rcases place with ⟨hc, -⟩ | ⟨hc, -⟩
  · obtain rfl := data hc
    exact .inl ⟨hc, fun _ => ⟨rfl, rfl, rfl, (Nat.zero_add _).trans dsize, rfl, dsize ▸ Nat.mul_mod_right 4 _⟩⟩
  · obtain rfl := tail hc
    exact .inr ⟨hc, fun _ => ⟨rfl, rfl, rfl, (congrArg₂ (· + ·) dsize tsize).trans parts,
      dsize ▸ Nat.mul_mod_right 4 _, tsize ▸ Nat.mul_mod_right 4 _⟩⟩

/-- The rest of the fetch keeps the invariant: what it loads is the chain's block (R264). -/
theorem State.Inv.loadBlock (h : s.Inv) (ha : s.dma.active = true) {b : CtrlBlock}
    (hf : s.fetchBlock = .ok (.cb b)) : (s.fetched.loadBlock b).Inv := by
  obtain ⟨x, hx, hin, hn, place⟩ := h.inChain ha
  have read : s.fetched.Inv := h.drew 8
  rcases loadBlock_cases (s := s.fetched) b with ⟨-, k⟩ | ⟨-, -, k⟩ | ⟨-, -, k⟩ <;> rw [k]
  · exact read.raiseDmaError ha nofun
  · exact read.raiseDmaError ha nofun
  · refine read.transfer ha (fun _ => ha) rfl rfl h.fifoBound (fun _ y hy => ?_) fun k => absurd (k.symm.trans ha) nofun
    obtain rfl := Option.some.inj (hx.symm.trans hy)
    refine place.load (hn.trans h.symWords_le) (fun hc => ?_) fun hc => ?_
    · cases hf.symm.trans (fetchBlock_data hin hc)
      rfl
    · cases hf.symm.trans (fetchBlock_tail hin hc)
      rfl

/-! ## Completion, and the scheduler's turn -/

/-- The completion step keeps the invariant (R276). -/
theorem State.Inv.completionStep (h : s.Inv) : s.completionStep.Inv := by
  rcases completionStep_cases (s := s) with ⟨hr, k⟩ | ⟨-, k⟩ <;> rw [k]
  · simp only [State.completionReady, Bool.and_eq_true, beq_iff_eq, Bool.not_eq_true', List.isEmpty_iff] at hr
    obtain ⟨⟨⟨⟨⟨⟨sub, idle⟩, -⟩, -⟩, fifo⟩, left0⟩, left1⟩ := hr
    have live : s.seq.state ≠ .uninit := by simp [sub]
    exact {
      h with
      phase := h.phase.submitted_complete sub rfl rfl rfl rfl fun hq => hq.congr rfl rfl
      activeSubmitted := fun k => absurd (idle.symm.trans k) nofun
      xferErr := fun _ => rfl
      uninit := nofun
      lanes := fun _ => h.lanes live
      snaps := fun _ => h.snaps live
      freq := fun _ => h.freq live
      running := fun _ hp => h.running live hp
      finished := nofun
      drained := fun _ => ⟨fifo, left0, left1⟩ }
  · exact h

/-- The scheduler's turn keeps the invariant (R260). -/
theorem State.Inv.schedulerTurn (h : s.Inv) (ht : schedulerTurn s = .next t) : t.Inv := by
  rcases schedulerTurn_cases ht with ⟨-, rfl⟩ | ⟨ha, hl, rfl⟩ | ⟨ha, -, b, hf, rfl⟩ | ⟨ha, -, c, hf, rfl⟩
  · exact h.completionStep
  · exact h.runLoaded ha hl
  · exact h.loadBlock ha (fetch_ok_fetchBlock hf)
  · exact (h.drew 8).raiseDmaError ha (fetch_error hf)

/-! ## The serializer -/

/-- The serializer's words and lanes change while it is enabled. -/
theorem State.Inv.lanesMove (h : s.Inv) (he : s.ser.enabled = true) {r : Ser} (enabled : r.enabled = s.ser.enabled)
    (room : r.fifo.length ≤ s.cfg.fifoDepth) (left0 : r.lane.ch0.left ≤ 32)
    (left1 : r.lane.ch1.left = if s.lat.mode = .pwm then r.lane.ch0.left else 0)
    (drive0 : r.lane.ch0.oe = false → r.lane.ch0.out = false)
    (drive1 : r.lane.ch1.oe = false → r.lane.ch1.out = false)
    (drained : s.seq.state ≠ .submitted → r.fifo = [] ∧ r.lane.ch0.left = 0 ∧ r.lane.ch1.left = 0) :
    ({ s with ser := r } : State).Inv :=
  have loud : ¬ s.Quiet := fun hq => absurd (hq.disabled.symm.trans he) nofun
  { h with
    phase := h.phase.congr_quiet rfl rfl rfl rfl rfl fun hq => absurd hq loud
    fifoBound := room
    left0 := left0
    left1 := left1
    drive0 := drive0
    drive1 := drive1
    uninit := fun hu => absurd (h.uninit hu).1 loud
    running := fun hu hp => enabled ▸ h.running hu hp
    drained := drained }

@[simp] theorem Lane.shift_left (l : Lane) (idle : Bool) : (l.shift idle).left = l.left - 1 := by
  unfold Lane.shift
  split
  · rfl
  · show l.left = l.left - 1
    omega

/-- A lane whose enable is 0 drives 0 after any sub-bit (R285). -/
theorem Lane.shift_drive (l : Lane) (idle : Bool) (h : (l.shift idle).oe = false) : (l.shift idle).out = false := by
  revert h
  unfold Lane.shift Lane.drive
  split <;> intro (h : l.oe = false) <;> simp [h]

/-- An enabled serializer has as many lanes as its mode, at least one (R154). -/
theorem State.Inv.lanes_of_enabled (h : s.Inv) (he : s.ser.enabled = true) : s.lat.lanes = s.lat.mode.lanes :=
  h.lanes fun hu => absurd ((h.uninit hu).1.disabled.symm.trans he) nofun

theorem Mode.lanes_pos (m : Mode) : 0 < m.lanes := by cases m <;> decide

/-- Two lanes are used in `PWM` only (R154). -/
theorem Mode.one_lt_lanes (m : Mode) : 1 < m.lanes ↔ m = .pwm := by cases m <;> decide

/-- The lanes' loads keep the invariant (R282). -/
theorem State.Inv.loadLanes (h : s.Inv) (he : s.ser.enabled = true) (hw : s.lat.lanes ≤ s.ser.fifo.length) :
    ({ s with ser := s.ser.loadLanes s.lat.lanes } : State).Inv := by
  have hl := h.lanes_of_enabled he
  have pos : 0 < s.lat.lanes := hl ▸ s.lat.mode.lanes_pos
  have two : 1 < s.lat.lanes ↔ s.lat.mode = .pwm := hl ▸ s.lat.mode.one_lt_lanes
  have room : s.ser.fifo.length - s.lat.lanes ≤ s.cfg.fifoDepth := (Nat.sub_le _ _).trans h.fifoBound
  refine h.lanesMove he rfl (by simpa [Ser.loadLanes] using room) ?_ ?_ ?_ ?_ fun hs => ?_
  · simp [Ser.loadLanes, pos, Lane.load]
  · have old := h.left1
    by_cases hm : s.lat.mode = .pwm <;> simp_all only [Ser.loadLanes, Lane.load, if_true, if_false]
  · simpa [Ser.loadLanes, pos, Lane.load] using h.drive0
  · by_cases hm : 1 < s.lat.lanes <;> simpa [Ser.loadLanes, hm, Lane.load] using h.drive1
  · rw [(h.drained hs).1, List.length_nil] at hw
    omega

/-- One sub-bit on every lane keeps the invariant (R281, R282). -/
theorem State.Inv.shiftLanes (h : s.Inv) (he : s.ser.enabled = true) (idle : Pair Bool) :
    ({ s with ser := s.ser.shiftLanes s.lat.lanes idle } : State).Inv := by
  have hl := h.lanes_of_enabled he
  have pos : 0 < s.lat.lanes := hl ▸ s.lat.mode.lanes_pos
  have two : 1 < s.lat.lanes ↔ s.lat.mode = .pwm := hl ▸ s.lat.mode.one_lt_lanes
  refine h.lanesMove he rfl h.fifoBound ?_ ?_ ?_ ?_ fun hs => ?_
  · simpa [Ser.shiftLanes, pos] using (Nat.sub_le _ 1).trans h.left0
  · have old := h.left1
    by_cases hm : s.lat.mode = .pwm <;> simp_all only [Ser.shiftLanes, Lane.shift_left, if_true, if_false]
  · simpa [Ser.shiftLanes, pos] using Lane.shift_drive s.ser.lane.ch0 idle.ch0
  · by_cases hm : 1 < s.lat.lanes
    · simpa [Ser.shiftLanes, hm] using Lane.shift_drive s.ser.lane.ch1 idle.ch1
    · simpa [Ser.shiftLanes, hm] using h.drive1
  · obtain ⟨fifo, left0, left1⟩ := h.drained hs
    by_cases hm : 1 < s.lat.lanes <;> simp [Ser.shiftLanes, pos, hm, fifo, left0, left1]

/-- The serializer's tick keeps the invariant (R282, R283). -/
theorem State.Inv.tick (h : s.Inv) : s.tick.Inv := by
  rcases tick_cases (s := s) with ⟨-, k⟩ | ⟨-, hst, -, k⟩ | ⟨-, -, -, k⟩ | ⟨hticks, -, k⟩ <;> rw [k]
  · exact h
  · exact h.raiseDmaError (Bool.and_eq_true_iff.mp hst).2 nofun
  · exact h
  · have he : s.ser.enabled = true := (Bool.and_eq_true_iff.mp hticks).1
    unfold State.shiftStep
    dsimp only
    split
    · exact (h.loadLanes he (And.right ‹_›)).shiftLanes he _
    · exact h.shiftLanes he _

end Sys2Proof.Machine
end

section
/-! Every step keeps the invariant. -/

namespace Sys2Proof.Machine

open State

variable {s t : State}

/-! ## The host -/

/-- A host read keeps the invariant: it changes shadows and the model's own fields (R108). -/
theorem State.Inv.hostRead (h : s.Inv) (target : HostTarget) : (s.hostRead target).Inv := by
  have keep {v : Word} {n : Nat} {tim : Tim} (hw : tim.renderWait = s.tim.renderWait) :
      (({ s.drew n with tim := tim } : State).answer v).Inv :=
    h.congr rfl rfl rfl h.idlePhase rfl rfl (fun _ => rfl) rfl rfl rfl rfl rfl rfl (.inl rfl) hw rfl
  cases target with
  | reg r => cases r <;> exact keep (n := 0) rfl
  | gamma n i => exact keep (n := 0) rfl
  | reserved => exact keep (n := 0) rfl
  | cb j => exact keep rfl
  | pixel n i => exact keep rfl
  | sym k => exact keep rfl

/-- A write to `CMD` keeps the invariant: a command is accepted where none runs (R300, R301). -/
theorem State.Inv.writeCmd (h : s.Inv) (v : Word) : ({ s with seq := s.seq.writeCmd v } : State).Inv := by
  unfold Seq.writeCmd
  split
  · exact h.congr rfl rfl rfl h.idlePhase rfl rfl (fun _ => rfl) rfl rfl rfl rfl rfl rfl (.inl rfl) rfl rfl
  · have hp : s.seq.phase = .start := h.idlePhase (by simp_all)
    exact h.congr rfl rfl rfl (fun _ => rfl) rfl hp.symm (fun k => absurd hp k) rfl rfl rfl rfl rfl rfl (.inl rfl) rfl rfl

/-- A host write keeps the invariant. -/
theorem State.Inv.writeTarget (h : s.Inv) (target : HostTarget) (v : Word) : (s.writeTarget target v).Inv := by
  have keep {regs : Regs} {lost hazard : Bool} {pixel gamma : Pair Memory} :
      ({ s with regs := regs, seq := { s.seq with cmdLost := lost, bufHazard := hazard },
                ram := { s.ram with pixel := pixel, gamma := gamma } } : State).Inv :=
    h.congr rfl rfl rfl h.idlePhase rfl rfl (fun _ => rfl) rfl rfl rfl rfl rfl rfl (.inl rfl) rfl rfl
  cases target with
  | reg r =>
    cases r
    case cmd => exact h.writeCmd v
    all_goals exact keep
  | gamma n i => exact keep
  | pixel n i => exact keep
  | cb j => exact h
  | sym k => exact h
  | reserved => exact h

/-- A host access keeps the invariant (R100). -/
theorem State.Inv.hostAccess (h : s.Inv) {offset : BitVec 20} {bytes : Nat} {op : HostOp}
    (ht : s.hostAccess offset bytes op = .next t) : t.Inv := by
  rcases hostAccess_cases ht with ⟨-, ⟨-, rfl⟩ | ⟨v, -, rfl⟩⟩
  · exact h.hostRead _
  · have w := h.writeTarget (hostTarget s.cfg offset) v
    exact w.congr rfl rfl rfl w.idlePhase rfl rfl (fun _ => rfl) rfl rfl rfl rfl rfl rfl (.inl rfl) rfl rfl

/-! ## Reset -/

/-- The reset values meet the invariant, whatever the parameters in their ranges (R391). -/
theorem resetHigh_inv (hc : s.cfg.ok = true) : s.resetHigh.Inv where
  cfgOk := hc
  idlePhase := fun _ => rfl
  phase := nofun
  hold := rfl
  activeSubmitted := nofun
  loadedActive := nofun
  errorCause := ⟨nofun, fun k => absurd rfl k⟩
  xferErr := nofun
  fifoBound := Nat.zero_le _
  left0 := Nat.zero_le _
  left1 := rfl
  drive0 := fun _ => rfl
  drive1 := fun _ => rfl
  white := (by constructor <;> decide : WhiteOk { ch0 := Snap.reset, ch1 := Snap.reset })
  uninit := fun _ => ⟨⟨rfl, rfl, rfl, ⟨rfl, rfl, rfl⟩, ⟨rfl, rfl, rfl⟩⟩, ⟨rfl, rfl, rfl⟩⟩
  lanes := fun k => absurd rfl k
  snaps := fun k => absurd rfl k
  freq := fun k => absurd rfl k
  running := fun k => absurd rfl k
  chain := nofun
  armed := nofun
  finished := nofun
  drained := fun _ => ⟨rfl, rfl, rfl⟩

/-! ## The step -/

/-- Every turn keeps the invariant. -/
theorem State.Inv.turn (h : s.Inv) {e : Event} (ht : turn e s = .next t) : t.Inv := by
  cases e with
  | host offset bytes op => exact h.hostAccess ht
  | platform address bytes op =>
    rcases platformAccess_cases ht with ⟨_, -, k⟩ | ⟨-, rfl⟩
    · exact h.hostAccess k
    · exact h
  | sequencer => exact h.sequencerTurn ht
  | scheduler => exact h.schedulerTurn ht
  | serializer =>
    obtain rfl := Host.Outcome.next.inj ht
    exact h.tick
  | clockManager =>
    obtain rfl := Host.Outcome.next.inj ht
    exact h.congr rfl rfl rfl h.idlePhase rfl rfl (fun _ => rfl) rfl rfl rfl rfl rfl rfl (.inr rfl) rfl rfl
  | timer =>
    obtain rfl := Host.Outcome.next.inj ht
    exact h.congr rfl rfl rfl h.idlePhase rfl rfl (fun _ => rfl) rfl rfl rfl rfl rfl rfl (.inl rfl) rfl rfl
  | resetLow =>
    obtain rfl := Host.Outcome.next.inj ht
    exact h.congr rfl rfl rfl h.idlePhase rfl rfl (fun _ => rfl) rfl rfl rfl rfl rfl rfl (.inl rfl) rfl rfl
  | resetHigh => exact Host.Outcome.next.inj ht ▸ h
  | setProfileId v => exact Host.Outcome.next.inj ht ▸ h

/-- What an event can do while `rst_n` is 0 (R390): nothing, the reset values, or a new `profile_id`. -/
theorem turnInReset_cases {e : Event} (ht : turnInReset e s = .next t) :
    t = s ∨ e = .resetHigh ∧ t = s.resetHigh ∨ ∃ v, e = .setProfileId v ∧ t = s.setProfileId v := by
  cases e with
  | host offset bytes op => cases ht
  | platform address bytes op =>
    simp only [turnInReset] at ht
    split at ht
    · cases ht
    · exact .inl (Host.Outcome.next.inj ht).symm
  | resetHigh => exact .inr (.inl ⟨rfl, (Host.Outcome.next.inj ht).symm⟩)
  | setProfileId v => exact .inr (.inr ⟨v, rfl, (Host.Outcome.next.inj ht).symm⟩)
  | _ => exact .inl (Host.Outcome.next.inj ht).symm

/-- Every event in reset keeps the invariant. -/
theorem State.Inv.turnInReset (h : s.Inv) {e : Event} (ht : turnInReset e s = .next t) : t.Inv := by
  rcases turnInReset_cases ht with rfl | ⟨-, rfl⟩ | ⟨v, -, rfl⟩
  · exact h
  · exact resetHigh_inv h.cfgOk
  · exact h.congr rfl rfl rfl h.idlePhase rfl rfl (fun _ => rfl) rfl rfl rfl rfl rfl rfl (.inl rfl) rfl rfl

/-- Settles O9: each turn keeps each part of the invariant; the scheduler's place in the chain is what makes a finished
transfer carry `END` and `INT`, and a fetch read the builder's block. -/
theorem stepKeepsInvariant : Obligations.StepKeepsInvariant := by
  unfold Obligations.StepKeepsInvariant
  intro s t h ht
  obtain ⟨es, n, hn, ⟨-, k⟩ | ⟨-, k⟩⟩ := step_cases ht
  · exact (hn ▸ h.nextEvent).turn k
  · exact (hn ▸ h.nextEvent).turnInReset k

end Sys2Proof.Machine
end

section
/-! What a turn can do to the timer, the clock manager's bit, the RAMs, the snapshot and the latched configuration:
said once, for the statements about who writes them. -/

namespace Sys2Proof.Machine

open State

variable {s t : State}

/-! ## What a turn keeps -/

/-- `BUSY`, `TIME_US` and the shadows are as they were, and every RAM stays canonical. -/
structure KeepsTime (s t : State) : Prop where
  busy          : t.env.busy = s.env.busy
  timeUs        : t.tim.timeUs = s.tim.timeUs
  timeHiShadow  : t.tim.timeHiShadow = s.tim.timeHiShadow
  rwaitHiShadow : t.tim.rwaitHiShadow = s.tim.rwaitHiShadow
  ram           : s.ram.wf → t.ram.wf

/-- The snapshot and the latched configuration, too. -/
structure KeepsLatched (s t : State) : Prop extends KeepsTime s t where
  snap : t.snap = s.snap
  lat  : t.lat = s.lat

theorem KeepsLatched.refl (s : State) : KeepsLatched s s := ⟨⟨rfl, rfl, rfl, rfl, id⟩, rfl, rfl⟩

/-! ## The commands -/

/-- INIT keeps them but at its commit (R312). -/
theorem execInit_keeps (h : execInit s = .next t) :
    KeepsLatched s t ∨ ∃ a t0, s.seq.phase = .initCommit a t0 ∧ t = (s.initCommit a).complete .success := by
  rcases execInit_cases h with ⟨_, -, rfl⟩ | ⟨_, _, -, ⟨-, rfl⟩ | ⟨-, -, rfl⟩ | ⟨-, -, rfl⟩⟩ | ⟨_, -, rfl⟩ |
    ⟨a, t0, hp, ⟨-, rfl⟩ | ⟨-, -, rfl⟩ | ⟨-, -, rfl⟩⟩ | ⟨_, -, rfl⟩ | ⟨_, -, rfl⟩
  case inr.inr.inr.inl.inr.inr => exact .inr ⟨a, t0, hp, rfl⟩
  all_goals exact .inl ⟨⟨rfl, rfl, rfl, rfl, id⟩, rfl, rfl⟩

/-- FINI keeps them but at its release (R334). -/
theorem execFini_keeps (h : execFini s = .next t) :
    KeepsLatched s t ∨ ∃ t0, s.seq.phase = .finiRelease t0 ∧ t = s.finiRelease.complete .success := by
  rcases execFini_cases h with ⟨-, rfl⟩ | ⟨t0, hp, ⟨-, rfl⟩ | ⟨-, rfl⟩⟩ | ⟨-, rfl⟩ | ⟨-, rfl⟩
  case inr.inl.inr => exact .inr ⟨t0, hp, rfl⟩
  all_goals exact .inl ⟨⟨rfl, rfl, rfl, rfl, id⟩, rfl, rfl⟩

/-- The encoder keeps them (R225). -/
theorem encodeStep_keeps (g0 g1 : List Word) : KeepsLatched s (s.encodeStep g0 g1) := by
  rcases encodeStep_cases (s := s) g0 g1 with ⟨-, k⟩ | ⟨-, -, k⟩ | ⟨-, -, k⟩ <;> rw [k]
  · exact ⟨⟨rfl, rfl, rfl, rfl, id⟩, rfl, rfl⟩
  · exact ⟨⟨rfl, rfl, rfl, rfl, id⟩, rfl, rfl⟩
  · exact ⟨⟨rfl, rfl, rfl, rfl, writeFrame_wf _⟩, rfl, rfl⟩

/-- The build phase keeps the snapshot (R252, R254). -/
theorem buildPhase_keeps : KeepsTime s s.buildPhase ∧ s.buildPhase.snap = s.snap := by
  rcases buildPhase_cases (s := s) with ⟨-, k⟩ | ⟨-, k⟩ <;> rw [k]
  · exact ⟨(KeepsLatched.refl s).toKeepsTime, rfl⟩
  · exact ⟨⟨rfl, rfl, rfl, rfl, buildChain_wf _ _⟩, rfl⟩

/-- RENDER keeps them but at its clear step, which takes the snapshot, and at its build phase, which latches what the
chain is built for (R320, R211, R252). -/
theorem execRender_keeps (h : execRender s = .next t) :
    KeepsLatched s t ∨
    (s.seq.phase = .renderLatch ∧ KeepsTime s t ∧ t.lat = s.lat ∧ t.seq.state = .idle) ∨
    (s.seq.phase = .renderBuild ∧ KeepsTime s t ∧ t.snap = s.snap) := by
  rcases execRender_cases h with ⟨-, ⟨-, rfl⟩ | ⟨-, rfl⟩⟩ | ⟨hp, ⟨-, rfl⟩ | ⟨_, -, -, rfl⟩ | ⟨-, -, rfl⟩⟩ | ⟨-, rfl⟩ |
    ⟨g0, g1, -, rfl⟩ | ⟨hp, rfl⟩ | ⟨-, rfl⟩ | ⟨-, rfl⟩ | ⟨-, rfl⟩
  case inr.inl.inr.inl => exact .inr (.inl ⟨hp, ⟨rfl, rfl, rfl, rfl, id⟩, rfl, rfl⟩)
  case inr.inl.inr.inr => exact .inr (.inl ⟨hp, ⟨rfl, rfl, rfl, rfl, id⟩, rfl, rfl⟩)
  case inr.inr.inr.inl => exact .inl (encodeStep_keeps g0 g1)
  case inr.inr.inr.inr.inl =>
    obtain ⟨⟨busy, us, hi, rwait, ram⟩, snap⟩ := buildPhase_keeps (s := s)
    exact .inr (.inr ⟨hp, ⟨busy, us, hi, rwait, ram⟩, snap⟩)
  all_goals exact .inl ⟨⟨rfl, rfl, rfl, rfl, id⟩, rfl, rfl⟩

/-- WAIT keeps them (R331). -/
theorem execWait_keeps (h : execWait s = .next t) : KeepsLatched s t := by
  rcases execWait_cases h with ⟨_, -, ⟨-, rfl⟩ | ⟨-, -, rfl⟩ | ⟨-, -, -, rfl⟩⟩ | ⟨-, rfl⟩ | ⟨-, rfl⟩ | ⟨-, -, rfl⟩ <;>
    exact ⟨⟨rfl, rfl, rfl, rfl, id⟩, rfl, rfl⟩

/-- SET_GAMMA keeps them (R330). -/
theorem execSetGamma_keeps {ch : Chan} (h : execSetGamma ch s = .next t) : KeepsLatched s t := by
  rcases execSetGamma_cases h with ⟨-, rfl⟩ | ⟨-, rfl⟩
  · exact ⟨⟨rfl, rfl, rfl, rfl, id⟩, rfl, rfl⟩
  · exact ⟨⟨rfl, rfl, rfl, rfl, writeGamma_wf _ _⟩, rfl, rfl⟩

/-! ## The scheduler and the serializer -/

theorem raiseDmaError_keeps (c : DmaCause) : KeepsLatched s (s.raiseDmaError c) :=
  ⟨⟨rfl, rfl, rfl, rfl, id⟩, rfl, rfl⟩

/-- The move step keeps them; it may write symbol RAM (R271). -/
theorem moveWord_keeps : KeepsLatched s s.moveWord := by
  rcases moveWord_cases (s := s) with ⟨-, k⟩ | ⟨-, -, k⟩ | ⟨-, -, -, -, k⟩ | ⟨-, -, -, -, k⟩ | ⟨-, -, -, k⟩ <;> rw [k]
  · exact raiseDmaError_keeps _
  · exact raiseDmaError_keeps _
  · exact raiseDmaError_keeps _
  · exact ⟨⟨rfl, rfl, rfl, rfl, id⟩, rfl, rfl⟩
  · refine ⟨⟨rfl, rfl, rfl, rfl, fun h => ?_⟩, rfl, rfl⟩
    obtain ⟨pixel0, pixel1, gamma0, gamma1, sym, cb⟩ := Rams.wf_iff.mp h
    exact Rams.wf_iff.mpr ⟨pixel0, pixel1, gamma0, gamma1, Memory.setWord_wf sym, cb⟩

/-- The scheduler's turn keeps them. -/
theorem schedulerTurn_keeps (h : schedulerTurn s = .next t) : KeepsLatched s t := by
  rcases schedulerTurn_cases h with ⟨-, rfl⟩ | ⟨-, -, rfl⟩ | ⟨-, -, b, -, rfl⟩ | ⟨-, -, _, -, rfl⟩
  · rcases completionStep_cases (s := s) with ⟨-, k⟩ | ⟨-, k⟩ <;> rw [k] <;>
      exact ⟨⟨rfl, rfl, rfl, rfl, id⟩, rfl, rfl⟩
  · rcases runLoaded_cases (s := s) with ⟨-, k⟩ | ⟨-, -, k⟩ | ⟨-, -, k⟩ <;> rw [k]
    · rcases finishBlock_cases (s := s) with ⟨-, k⟩ | ⟨-, k⟩ <;> rw [k] <;>
        exact ⟨⟨rfl, rfl, rfl, rfl, id⟩, rfl, rfl⟩
    · exact moveWord_keeps
    · exact .refl s
  · rcases loadBlock_cases (s := s.fetched) b with ⟨-, k⟩ | ⟨-, -, k⟩ | ⟨-, -, k⟩ <;> rw [k] <;>
      exact ⟨⟨rfl, rfl, rfl, rfl, id⟩, rfl, rfl⟩
  · exact ⟨⟨rfl, rfl, rfl, rfl, id⟩, rfl, rfl⟩

/-- The serializer's tick keeps them. -/
theorem tick_keeps : KeepsLatched s s.tick := by
  rcases tick_cases (s := s) with ⟨-, k⟩ | ⟨-, -, -, k⟩ | ⟨-, -, -, k⟩ | ⟨-, -, k⟩ <;> rw [k] <;>
    exact ⟨⟨rfl, rfl, rfl, rfl, id⟩, rfl, rfl⟩

/-! ## The host -/

/-- An offset that names a register is the register's own (R34 to R58). -/
theorem hostTarget_eq_reg {c : Config} {offset : BitVec 20} {r : Reg} (h : hostTarget c offset = .reg r) :
    offset = BitVec.ofNat 20 r.offset := by
  have found : regAt offset.toNat = some r := by
    simp only [hostTarget, pixelTarget, ite_eq_iff, reduceCtorEq, and_false, or_false] at h
    obtain ⟨-, h⟩ := h
    split at h <;> cases h
    assumption
  have := List.find?_some found
  simp only [beq_iff_eq] at this
  rw [this, BitVec.ofNat_toNat, BitVec.setWidth_eq]

/-- The host reads at this offset with this event, directly or at the block's platform address (R101). -/
def State.readsAt (s : State) (e : Event) (offset : BitVec 20) : Prop :=
  e = .host offset 4 .read ∨ ∃ a, e = .platform a 4 .read ∧ platformOffset s.cfg a = some offset

/-- A host read keeps all but the shadow of a 64-bit value whose low word it reads (R108). -/
theorem hostRead_keeps (target : HostTarget) :
    KeepsLatched s (s.hostRead target) ∨
      ∃ r, target = .reg r ∧ (r = .timeLo ∨ r = .rwaitLo) ∧
        s.hostRead target = (s.readEffect r).answer (s.readReg r) := by
  cases target with
  | reg r =>
    cases r
    case timeLo => exact .inr ⟨.timeLo, rfl, .inl rfl, rfl⟩
    case rwaitLo => exact .inr ⟨.rwaitLo, rfl, .inr rfl, rfl⟩
    all_goals exact .inl ⟨⟨rfl, rfl, rfl, rfl, id⟩, rfl, rfl⟩
  | _ => exact .inl ⟨⟨rfl, rfl, rfl, rfl, id⟩, rfl, rfl⟩

/-- A host write keeps them; it may write gamma RAM and pixel RAM (R103, R105). -/
theorem hostWrite_keeps (target : HostTarget) (v : Word) : KeepsLatched s (s.hostWrite target v) := by
  cases target with
  | reg r => cases r <;> exact ⟨⟨rfl, rfl, rfl, rfl, id⟩, rfl, rfl⟩
  | gamma n i =>
    refine ⟨⟨rfl, rfl, rfl, rfl, fun h => ?_⟩, rfl, rfl⟩
    obtain ⟨pixel0, pixel1, gamma0, gamma1, sym, cb⟩ := Rams.wf_iff.mp h
    cases n
    · exact Rams.wf_iff.mpr ⟨pixel0, pixel1, Memory.setEntry_wf gamma0, gamma1, sym, cb⟩
    · exact Rams.wf_iff.mpr ⟨pixel0, pixel1, gamma0, Memory.setEntry_wf gamma1, sym, cb⟩
  | pixel n i =>
    refine ⟨⟨rfl, rfl, rfl, rfl, fun h => ?_⟩, rfl, rfl⟩
    obtain ⟨pixel0, pixel1, gamma0, gamma1, sym, cb⟩ := Rams.wf_iff.mp h
    cases n
    · exact Rams.wf_iff.mpr ⟨Memory.setWord_wf pixel0, pixel1, gamma0, gamma1, sym, cb⟩
    · exact Rams.wf_iff.mpr ⟨pixel0, Memory.setWord_wf pixel1, gamma0, gamma1, sym, cb⟩
  | cb j => exact ⟨⟨rfl, rfl, rfl, rfl, id⟩, rfl, rfl⟩
  | sym k => exact ⟨⟨rfl, rfl, rfl, rfl, id⟩, rfl, rfl⟩
  | reserved => exact ⟨⟨rfl, rfl, rfl, rfl, id⟩, rfl, rfl⟩

/-- A host access keeps them but for a 64-bit value's shadow, at the read of its low word (R108). -/
theorem hostAccess_keeps {offset : BitVec 20} {bytes : Nat} {op : HostOp}
    (h : s.hostAccess offset bytes op = .next t) :
    KeepsLatched s t ∨
      (bytes = 4 ∧ op = .read ∧ ∃ r, offset = BitVec.ofNat 20 r.offset ∧ (r = .timeLo ∨ r = .rwaitLo) ∧
        t = (s.readEffect r).answer (s.readReg r)) := by
  rcases hostAccess_cases h with ⟨hok, ⟨hop, rfl⟩ | ⟨v, -, rfl⟩⟩
  · rcases hostRead_keeps (s := s) (hostTarget s.cfg offset) with k | ⟨r, hr, hlow, k⟩
    · exact .inl k
    · have hbytes : bytes = 4 := by simpa using (Bool.and_eq_true_iff.mp hok).1
      exact .inr ⟨hbytes, hop, r, hostTarget_eq_reg hr, hlow, k⟩
  · exact .inl (hostWrite_keeps _ v)

/-! ## The turn -/

/-- The turn of the sequencer at which the snapshot or the latched configuration can change (R61, R210). -/
structure LatchingTurn (e : Event) (s t : State) : Prop where
  event  : e = .sequencer
  busy   : s.seq.cmdBusy = true
  keeps  : KeepsTime s t
  latches :
    (∃ a t0, s.seq.phase = .initCommit a t0) ∧ decodeCmd s.seq.cmd = .init ∧ t.seq.state = .idle ∨
    (∃ t0, s.seq.phase = .finiRelease t0) ∧ decodeCmd s.seq.cmd = .fini ∧ t.snap = s.snap ∨
    s.seq.phase = .renderLatch ∧ decodeCmd s.seq.cmd = .render ∧ t.seq.state = .idle ∧ t.lat = s.lat ∨
    s.seq.phase = .renderBuild ∧ decodeCmd s.seq.cmd = .render ∧ t.snap = s.snap

/-- The sequencer's turn keeps them but at these four steps. -/
theorem sequencerTurn_keeps (h : sequencerTurn s = .next t) : KeepsLatched s t ∨ LatchingTurn .sequencer s t := by
  rcases sequencerTurn_cases h with ⟨hb, k⟩ | ⟨-, rfl⟩
  · cases hc : decodeCmd s.seq.cmd <;> rw [hc] at k
    case init =>
      rcases execInit_keeps k with k | ⟨a, t0, hp, rfl⟩
      · exact .inl k
      · exact .inr ⟨rfl, hb, ⟨rfl, rfl, rfl, rfl, initCommit_wf a⟩, .inl ⟨⟨a, t0, hp⟩, hc, rfl⟩⟩
    case fini =>
      rcases execFini_keeps k with k | ⟨t0, hp, rfl⟩
      · exact .inl k
      · exact .inr ⟨rfl, hb, ⟨rfl, rfl, rfl, rfl, id⟩, .inr (.inl ⟨⟨t0, hp⟩, hc, rfl⟩)⟩
    case render =>
      rcases execRender_keeps k with k | ⟨hp, k, hlat, hidle⟩ | ⟨hp, k, hsnap⟩
      · exact .inl k
      · exact .inr ⟨rfl, hb, k, .inr (.inr (.inl ⟨hp, hc, hidle, hlat⟩))⟩
      · exact .inr ⟨rfl, hb, k, .inr (.inr (.inr ⟨hp, hc, hsnap⟩))⟩
    case wait => exact .inl (execWait_keeps k)
    case setGamma ch => exact .inl (execSetGamma_keeps k)
    case cmdMalformed op ch rsvd =>
      obtain rfl := Host.Outcome.next.inj k
      exact .inl ⟨⟨rfl, rfl, rfl, rfl, id⟩, rfl, rfl⟩
    case cb b => exact absurd hc (decodeCmd_ne_cb _ b)
  · exact .inl (.refl t)

/-- A turn keeps all of them, or is one of the five kinds of turn that change one. -/
theorem turn_keeps {e : Event} (h : turn e s = .next t) :
    KeepsLatched s t ∨ LatchingTurn e s t ∨
    (∃ r, s.readsAt e (BitVec.ofNat 20 r.offset) ∧ (r = .timeLo ∨ r = .rwaitLo) ∧
      t = (s.readEffect r).answer (s.readReg r)) ∨
    (e = .clockManager ∧ t = s.clockManagerStep) ∨ (e = .timer ∧ t = s.timerTick) ∨
    (e = .resetLow ∧ t = s.resetLow) := by
  cases e with
  | host offset bytes op =>
    rcases hostAccess_keeps h with k | ⟨rfl, rfl, r, rfl, hr, k⟩
    · exact .inl k
    · exact .inr (.inr (.inl ⟨r, .inl rfl, hr, k⟩))
  | platform address bytes op =>
    rcases platformAccess_cases h with ⟨offset, ho, k⟩ | ⟨-, rfl⟩
    · rcases hostAccess_keeps k with k | ⟨rfl, rfl, r, rfl, hr, k⟩
      · exact .inl k
      · exact .inr (.inr (.inl ⟨r, .inr ⟨address, rfl, ho⟩, hr, k⟩))
    · exact .inl (.refl t)
  | sequencer => exact (sequencerTurn_keeps h).imp_right .inl
  | scheduler => exact .inl (schedulerTurn_keeps h)
  | serializer => exact .inl (Host.Outcome.next.inj h ▸ tick_keeps)
  | clockManager => exact .inr (.inr (.inr (.inl ⟨rfl, (Host.Outcome.next.inj h).symm⟩)))
  | timer => exact .inr (.inr (.inr (.inr (.inl ⟨rfl, (Host.Outcome.next.inj h).symm⟩))))
  | resetLow => exact .inr (.inr (.inr (.inr (.inr ⟨rfl, (Host.Outcome.next.inj h).symm⟩))))
  | resetHigh => exact .inl (Host.Outcome.next.inj h ▸ .refl s)
  | setProfileId v => exact .inl (Host.Outcome.next.inj h ▸ .refl s)

end Sys2Proof.Machine
end

section
/-! Who writes the RAMs, the snapshot, the timer and the clock manager's bit. -/

namespace Sys2Proof.Machine

open State

variable {s t : State}

/-! ## The timer and the inputs -/

/-- Only the timer changes `TIME_US` (R60), and only the clock manager `BUSY` (R195). -/
theorem turn_timeUs_busy {e : Event} (h : turn e s = .next t) :
    (e = .timer ∨ t.tim.timeUs = s.tim.timeUs) ∧ (e = .clockManager ∨ t.env.busy = s.env.busy) := by
  rcases turn_keeps h with k | k | ⟨r, -, rfl | rfl, rfl⟩ | ⟨he, rfl⟩ | ⟨he, rfl⟩ | ⟨-, rfl⟩
  · exact ⟨.inr k.timeUs, .inr k.busy⟩
  · exact ⟨.inr k.keeps.timeUs, .inr k.keeps.busy⟩
  · exact ⟨.inr rfl, .inr rfl⟩
  · exact ⟨.inr rfl, .inr rfl⟩
  · exact ⟨.inr rfl, .inl he⟩
  · exact ⟨.inl he, .inr rfl⟩
  · exact ⟨.inr rfl, .inr rfl⟩

/-- Only a read of a low word changes its high word's shadow (R42, R43, R107). -/
theorem turn_shadows {e : Event} (h : turn e s = .next t) :
    (t.tim.timeHiShadow = s.tim.timeHiShadow ∨ s.readsAt e 0x020#20) ∧
      (t.tim.rwaitHiShadow = s.tim.rwaitHiShadow ∨ s.readsAt e 0x028#20) := by
  rcases turn_keeps h with k | k | ⟨r, hr, rfl | rfl, rfl⟩ | ⟨-, rfl⟩ | ⟨-, rfl⟩ | ⟨-, rfl⟩
  · exact ⟨.inl k.timeHiShadow, .inl k.rwaitHiShadow⟩
  · exact ⟨.inl k.keeps.timeHiShadow, .inl k.keeps.rwaitHiShadow⟩
  · exact ⟨.inr hr, .inl rfl⟩
  · exact ⟨.inl rfl, .inr hr⟩
  all_goals exact ⟨.inl rfl, .inl rfl⟩

/-- Every turn keeps every RAM canonical. -/
theorem turn_wf {e : Event} (h : turn e s = .next t) (hw : s.ram.wf) : t.ram.wf := by
  rcases turn_keeps h with k | k | ⟨r, -, rfl | rfl, rfl⟩ | ⟨-, rfl⟩ | ⟨-, rfl⟩ | ⟨-, rfl⟩
  · exact k.ram hw
  · exact k.keeps.ram hw
  all_goals exact hw

/-- A step out of reset is the turn of its event, at the state without it. -/
theorem step_turn_cases (hr : s.env.rstN = true) (h : step s = .next t) :
    ∃ es n, turn s.nextEvent.1 { s with env := { s.env with events := es, draws := n } } = .next t := by
  obtain ⟨es, n, -, ⟨-, k⟩ | ⟨hn, -⟩⟩ := step_cases h
  · exact ⟨es, n, k⟩
  · exact absurd (hr.symm.trans hn) nofun

/-- Settles O7: each RAM write keeps the form, and a reset lists nothing. -/
theorem stepKeepsCanonicalMemory : Obligations.StepKeepsCanonicalMemory := by
  unfold Obligations.StepKeepsCanonicalMemory
  intro s t hw ht
  obtain ⟨es, n, -, ⟨-, k⟩ | ⟨-, k⟩⟩ := step_cases ht
  · exact turn_wf k hw
  · rcases turnInReset_cases k with rfl | ⟨-, rfl⟩ | ⟨v, -, rfl⟩
    · exact hw
    · exact Rams.wf_iff.mpr ⟨Memory.nil_wf, Memory.nil_wf, Memory.nil_wf, Memory.nil_wf, Memory.nil_wf, Memory.nil_wf⟩
    · exact hw

/-- Settles O17: of the four steps of the sequencer that latch something, each says which component it leaves. -/
theorem onlySnapshotStepsWriteSnapshot : Obligations.OnlySnapshotStepsWriteSnapshot := by
  unfold Obligations.OnlySnapshotStepsWriteSnapshot
  intro s t hr ht
  obtain ⟨es, n, k⟩ := step_turn_cases hr ht
  generalize s.nextEvent.1 = e at *
  rcases turn_keeps k with k | ⟨he, hb, -, hl⟩ | ⟨r, -, rfl | rfl, rfl⟩ | ⟨-, rfl⟩ | ⟨-, rfl⟩ | ⟨-, rfl⟩
  · exact ⟨fun hne => absurd k.snap hne, fun hne => absurd k.lat hne⟩
  · refine ⟨fun hne => ⟨he, hb, ?_⟩, fun hne => ⟨he, hb, ?_⟩⟩
    · rcases hl with k | ⟨-, -, hsnap⟩ | ⟨hp, hc, hidle, -⟩ | ⟨-, -, hsnap⟩
      · exact .inl k
      · exact absurd hsnap hne
      · exact .inr ⟨hp, hc, hidle⟩
      · exact absurd hsnap hne
    · rcases hl with ⟨hp, hc, -⟩ | ⟨hp, hc, -⟩ | ⟨-, -, -, hlat⟩ | ⟨hp, hc, -⟩
      · exact .inl ⟨hp, hc⟩
      · exact .inr (.inl ⟨hp, hc⟩)
      · exact absurd hlat hne
      · exact .inr (.inr ⟨hp, hc⟩)
  all_goals exact ⟨fun hne => absurd rfl hne, fun hne => absurd rfl hne⟩

/-- Settles O18: `TIME_US` and `BUSY` each have one turn that writes them. -/
theorem timerAndClockManager : Obligations.TimerAndClockManager := by
  unfold Obligations.TimerAndClockManager
  refine ⟨rfl, rfl, fun s t hr ht => ?_⟩
  obtain ⟨es, n, k⟩ := step_turn_cases hr ht
  obtain ⟨us, busy⟩ := turn_timeUs_busy k
  refine ⟨fun he => ?_, us.resolve_left, fun he => ?_, busy.resolve_left⟩
  · rw [he] at k
    obtain rfl := Host.Outcome.next.inj k
    rfl
  · rw [he] at k
    obtain rfl := Host.Outcome.next.inj k
    rfl

/-! ## Accesses to registers -/

/-- The offset of a register is a multiple of 4 (R51). -/
theorem Reg.offset_aligned (r : Reg) : (BitVec.ofNat 20 r.offset).toNat % 4 = 0 := by
  cases r with
  | gpio n | invert n | count n | layout n | brightness n | shifts n | latched n => cases n <;> rfl
  | _ => rfl

/-- A read of a register answers its value, with its side effect (R103, R108). -/
theorem hostAccess_read_reg (s : State) (r : Reg) :
    s.hostAccess (BitVec.ofNat 20 r.offset) 4 .read = .next ((s.readEffect r).answer (s.readReg r)) := by
  rw [hostAccess_read r.offset_aligned, hostTarget_reg]
  rfl

/-- A write of a register (R104). -/
theorem hostAccess_write_reg (s : State) (r : Reg) (v : Word) :
    s.hostAccess (BitVec.ofNat 20 r.offset) 4 (.write v) =
      .next { s.writeReg r v with env := { (s.writeReg r v).env with bus := .written } } := by
  rw [hostAccess_write r.offset_aligned, hostTarget_reg]
  rfl

/-- Settles O20: the two low words are the only registers whose read has an effect. -/
theorem wideReadsAreConsistent : Obligations.WideReadsAreConsistent := by
  unfold Obligations.WideReadsAreConsistent
  refine ⟨fun s => ⟨hostAccess_read_reg s .timeLo, hostAccess_read_reg s .rwaitLo, hostAccess_read_reg s .timeHi,
    hostAccess_read_reg s .rwaitHi⟩, fun s t hr ht => ?_⟩
  obtain ⟨es, n, k⟩ := step_turn_cases hr ht
  obtain ⟨hi, rwait⟩ := turn_shadows k
  exact ⟨hi.resolve_left, rwait.resolve_left⟩

end Sys2Proof.Machine
end

section
/-! The registers: which bits a packed word holds, and what a write to each keeps. -/

namespace Sys2Proof.Machine

open State

/-! ## Fields of a packed word -/

/-- A field of a word, bit by bit. -/
theorem field_eq_iff {v : Word} {lo n : Nat} {x : BitVec n} :
    v.field lo n = x ↔ ∀ i, i < n → v.getLsbD (lo + i) = x.getLsbD i := by
  refine ⟨fun h i hi => ?_, fun h => BitVec.eq_of_getLsbD_eq fun i hi => ?_⟩
  · rw [← h, Word.field, BitVec.getLsbD_extractLsb', decide_eq_true hi, Bool.true_and]
  · rw [Word.field, BitVec.getLsbD_extractLsb', decide_eq_true hi, Bool.true_and, h i hi]

/-- A narrow register in the low bits of a word, the other bits 0. -/
theorem zero_append_eq_zeroExtend {n : Nat} (k : Nat) (x : BitVec n) : 0#k ++ x = x.zeroExtend (k + n) := by
  apply BitVec.eq_of_getLsbD_eq
  intro i hi
  rw [BitVec.getLsbD_append, BitVec.getLsbD_setWidth, decide_eq_true hi, Bool.true_and]
  split
  · rfl
  · simp [BitVec.getLsbD_of_ge x i (by omega)]

/-- `STATUS`'s fields (R34). -/
theorem statusWord_fields (s : State) :
    s.statusWord.field 0 3 = s.seq.state.code ∧
    s.statusWord.getLsbD 3 = s.seq.cmdBusy ∧ s.statusWord.getLsbD 4 = s.seq.xferErr ∧
    s.statusWord.getLsbD 5 = s.seq.cmdLost ∧ s.statusWord.getLsbD 6 = s.seq.bufHazard ∧
    s.statusWord.getLsbD 7 = false ∧ s.statusWord.field 8 3 = s.seq.hold.code ∧ s.statusWord.field 11 5 = 0#5 ∧
    s.statusWord.field 16 2 = s.lat.mode.code ∧ s.statusWord.getLsbD 18 = s.lat.active.ch0 ∧
    s.statusWord.getLsbD 19 = s.lat.active.ch1 ∧ s.statusWord.getLsbD 20 = s.seq.chainValid ∧
    s.statusWord.field 21 11 = 0#11 := by
  unfold State.statusWord
  simp only [field_eq_iff, BitVec.getLsbD_append]
  refine ⟨?_, by simp, by simp, by simp, by simp, by simp, ?_, ?_, ?_, by simp, by simp, by simp, ?_⟩ <;>
    (intro i hi; interval_cases i <;> simp)

/-- `CLK_CTL`'s fields (R44). -/
theorem clkCtlWord_fields (s : State) :
    s.clkCtlWord.getLsbD 4 = s.clk.enab ∧ s.clkCtlWord.getLsbD 7 = s.env.busy ∧
    s.clkCtlWord.field 0 4 = 0#4 ∧ s.clkCtlWord.field 5 2 = 0#2 ∧ s.clkCtlWord.field 8 24 = 0#24 := by
  unfold State.clkCtlWord
  simp only [field_eq_iff, BitVec.getLsbD_append]
  refine ⟨by simp, by simp, ?_, ?_, ?_⟩ <;> (intro i hi; interval_cases i <;> simp)

/-- `CLK_DIV`'s fields (R45). -/
theorem clkDivWord_fields (s : State) :
    s.clkDivWord.field 12 12 = s.clk.divi ∧ s.clkDivWord.field 0 12 = 0#12 ∧ s.clkDivWord.field 24 8 = 0#8 := by
  unfold State.clkDivWord
  simp only [field_eq_iff, BitVec.getLsbD_append]
  refine ⟨?_, ?_, ?_⟩ <;> (intro i hi; interval_cases i <;> simp)

/-- `DMA_CS`'s fields (R46). -/
theorem dmaCsWord_fields (s : State) :
    s.dmaCsWord.getLsbD 0 = s.dma.active ∧ s.dmaCsWord.getLsbD 1 = s.dma.ended ∧
    s.dmaCsWord.getLsbD 2 = s.dma.int ∧ s.dmaCsWord.getLsbD 3 = s.dreq ∧ s.dmaCsWord.field 4 4 = 0#4 ∧
    s.dmaCsWord.getLsbD 8 = s.dma.error ∧ s.dmaCsWord.field 9 7 = 0#7 ∧
    s.dmaCsWord.field 16 4 = s.dma.errCause.code ∧ s.dmaCsWord.field 20 12 = 0#12 := by
  unfold State.dmaCsWord
  simp only [field_eq_iff, BitVec.getLsbD_append]
  refine ⟨by simp, by simp, by simp, by simp, ?_, by simp, ?_, ?_, ?_⟩ <;> (intro i hi; interval_cases i <;> simp)

/-- `GEOMETRY`'s fields (R50). -/
theorem geometryWord_fields (s : State) :
    s.geometryWord.field 0 16 = s.lat.geometry.d ∧ s.geometryWord.field 16 14 = s.lat.geometry.t ∧
    s.geometryWord.field 30 2 = s.lat.geometry.lanes := by
  unfold State.geometryWord
  simp only [field_eq_iff, BitVec.getLsbD_append]
  refine ⟨?_, ?_, ?_⟩ <;> (intro i hi; interval_cases i <;> simp)

/-- `LATCHED`'s fields (R58). -/
theorem latchedWord_fields (x : Snap) :
    x.latchedWord.field 0 16 = x.count ∧ x.latchedWord.getLsbD 16 = x.white ∧ x.latchedWord.getLsbD 17 = x.invert ∧
    x.latchedWord.field 18 6 = 0#6 ∧ x.latchedWord.field 24 8 = x.brightness := by
  unfold Snap.latchedWord
  simp only [field_eq_iff, BitVec.getLsbD_append]
  refine ⟨?_, by simp, by simp, ?_, ?_⟩ <;> (intro i hi; interval_cases i <;> simp)

/-- DREQ (R269). -/
theorem dreq_iff (s : State) : s.dreq = true ↔ s.dma.loaded = true ∧
    (s.dma.ti.field 16 5 = 0#5 ∨ s.dma.ti.field 16 5 = s.lat.mode.permap ∧ s.ser.fifo.length < s.cfg.fifoDepth) := by
  simp [State.dreq, tiFields]

/-- `RESULT` in two's complement (R35). -/
theorem RetCode.toInt_word (c : RetCode) : c.word.toInt = c.value := by cases c <;> decide

/-- `FIFO_LEVEL` is the number of words held, at most 255 (R48). -/
theorem fifoLevelWord_toNat {s : State} (h : s.ser.fifo.length < 256) : s.fifoLevelWord.toNat = s.ser.fifo.length := by
  unfold State.fifoLevelWord
  rw [zero_append_eq_zeroExtend, BitVec.toNat_setWidth, BitVec.toNat_ofNat]
  omega

/-- Settles O22: `STATUS` by its fields, and its write by `Seq.writeStatus`. -/
theorem statusRegister : Obligations.StatusRegister := by
  unfold Obligations.StatusRegister
  exact fun s => ⟨⟨s.statusWord, hostAccess_read_reg s .status, statusWord_fields s⟩, hostAccess_write_reg s .status⟩

/-- Settles O23: each register's read and the fields of the word it answers. -/
theorem packedRegisters : Obligations.PackedRegisters := by
  unfold Obligations.PackedRegisters
  intro s read permap used
  have read_reg := hostAccess_read_reg s
  refine ⟨⟨_, read_reg .clkCtl, clkCtlWord_fields s⟩, ⟨_, read_reg .clkDiv, clkDivWord_fields s⟩,
    ⟨_, read_reg .dmaCs, ?_⟩, fun h => ⟨_, read_reg .fifoLevel, fifoLevelWord_toNat ?_⟩,
    ⟨_, read_reg .geometry, geometryWord_fields s⟩, ⟨_, read_reg .result, RetCode.toInt_word _⟩,
    fun n => ⟨(s.snap.get n).latchedWord, ?_, latchedWord_fields _⟩, read_reg .profile, read_reg .coreHz,
    read_reg .dmaConblkAd, read_reg .dmaTi, read_reg .dmaSourceAd, read_reg .dmaDestAd, read_reg .dmaTxfrLen,
    read_reg .dmaNextconbk, fun n => ?_⟩
  · obtain ⟨active, ended, int, dreq, fields⟩ := dmaCsWord_fields s
    exact ⟨active, ended, int, (Iff.of_eq (congrArg (· = true) dreq)).trans (dreq_iff s), fields⟩
  · obtain ⟨-, -, -, -, -, hdepth, -⟩ := of_decide_eq_true h.cfgOk
    have := h.fifoBound
    omega
  · cases n
    · exact read_reg (.latched .ch0)
    · exact read_reg (.latched .ch1)
  · cases n
    · exact read_reg (.shifts .ch0)
    · exact read_reg (.shifts .ch1)

/-- Settles O24: each register's write and read, the narrow ones with the bits above them 0. -/
theorem hostRegistersReadBack : Obligations.HostRegistersReadBack := by
  unfold Obligations.HostRegistersReadBack
  intro s v n write read base c
  have read_reg := hostAccess_read_reg s
  have write_reg (r : Reg) := hostAccess_write_reg s r v
  refine ⟨write_reg .freq, read_reg .freq, write_reg .dmanum, ?_, write_reg .gammaFactor, read_reg .gammaFactor,
    write_reg (.gpio n), ?_, write_reg (.invert n), ?_, write_reg (.count n), ?_, write_reg (.layout n),
    read_reg (.layout n), write_reg (.brightness n), ?_⟩
  · rw [zero_append_eq_zeroExtend]; exact read_reg .dmanum
  · rw [zero_append_eq_zeroExtend]; exact read_reg (.gpio n)
  · rw [zero_append_eq_zeroExtend]; exact read_reg (.invert n)
  · rw [zero_append_eq_zeroExtend]; exact read_reg (.count n)
  · rw [zero_append_eq_zeroExtend]; exact read_reg (.brightness n)

end Sys2Proof.Machine
end

section
/-! What each turn answers: an instruction always a next state, an access to the port a bus error or a refusal in
reset where it has none. -/

namespace Sys2Proof.Machine

open State

variable {s : State}

/-! ## Instructions -/

theorem execInit_answers (s : State) : ∃ t, execInit s = .next t := by
  unfold execInit
  split
  case h_2 | h_4 => split_ifs <;> exact ⟨_, rfl⟩
  case h_5 => cases s.initChecks <;> exact ⟨_, rfl⟩
  all_goals exact ⟨_, rfl⟩

theorem execFini_answers (s : State) : ∃ t, execFini s = .next t := by
  unfold execFini
  split
  case h_1 => exact ⟨_, rfl⟩
  all_goals split_ifs <;> exact ⟨_, rfl⟩

theorem execRender_answers (s : State) : ∃ t, execRender s = .next t := by
  unfold execRender
  split
  case h_2 =>
    split
    · exact ⟨_, rfl⟩
    · cases s.renderClear.renderCheck <;> exact ⟨_, rfl⟩
  case h_1 | h_7 => split_ifs <;> exact ⟨_, rfl⟩
  all_goals exact ⟨_, rfl⟩

theorem execWait_answers (s : State) : ∃ t, execWait s = .next t := by
  unfold execWait
  split <;> split_ifs <;> exact ⟨_, rfl⟩

theorem execSetGamma_answers (ch : Chan) (s : State) : ∃ t, execSetGamma ch s = .next t := by
  unfold execSetGamma
  split_ifs <;> exact ⟨_, rfl⟩

theorem execCb_answers (b : CtrlBlock) (s : State) : ∃ t, execCb b s = .next t := by
  unfold execCb
  split_ifs <;> exact ⟨_, rfl⟩

/-- Every instruction answers a next state (R366). -/
theorem exec_answers (i : Instr) (s : State) : ∃ t, exec i s = .next t := by
  cases i with
  | init => exact execInit_answers s
  | fini => exact execFini_answers s
  | render => exact execRender_answers s
  | wait => exact execWait_answers s
  | setGamma ch => exact execSetGamma_answers ch s
  | cmdMalformed op ch rsvd => exact ⟨_, rfl⟩
  | cb b => exact execCb_answers b s

theorem sequencerTurn_answers (s : State) : ∃ t, sequencerTurn s = .next t := by
  unfold sequencerTurn
  split
  · exact exec_answers _ s
  · exact ⟨s, rfl⟩

theorem schedulerTurn_answers (s : State) : ∃ t, schedulerTurn s = .next t := by
  unfold schedulerTurn fetchTurn
  split
  · exact ⟨_, rfl⟩
  · split
    · exact exec_answers _ s
    · cases s.fetch with
      | ok i => exact exec_answers i s.fetched
      | error cause => exact ⟨_, rfl⟩

/-! ## Accesses -/

/-- The port takes an access of 32 bits at a multiple of 4 (R100). -/
theorem hostAccess_answers {offset : BitVec 20} {bytes : Nat} (op : HostOp)
    (h : bytes = 4 ∧ offset.toNat % 4 = 0) : ∃ t, s.hostAccess offset bytes op = .next t := by
  obtain ⟨rfl, ha⟩ := h
  cases op with
  | read => exact ⟨_, hostAccess_read ha⟩
  | write v => exact ⟨_, hostAccess_write ha⟩

/-- Any other access is a bus error (R102). -/
theorem hostAccess_busError {offset : BitVec 20} {bytes : Nat} (op : HostOp)
    (h : ¬(bytes = 4 ∧ offset.toNat % 4 = 0)) : s.hostAccess offset bytes op = .refused .busError := by
  unfold hostAccess
  rw [if_pos]
  simpa [accessOk, -not_and, not_and_or] using h

theorem platformAccess_of_some {address : Nat} {offset : BitVec 20} (h : platformOffset s.cfg address = some offset)
    (bytes : Nat) (op : HostOp) : s.platformAccess address bytes op = s.hostAccess offset bytes op := by
  simp [platformAccess, h]

theorem platformAccess_of_none {address : Nat} (h : platformOffset s.cfg address = none) (bytes : Nat)
    (op : HostOp) : s.platformAccess address bytes op = .next s := by
  simp [platformAccess, h]

/-- The window of the block holds `BASE + o` for every offset `o` (R101). -/
theorem platformOffset_base (c : Config) (offset : BitVec 20) :
    platformOffset c (c.base + offset.toNat) = some offset := by
  unfold platformOffset
  rw [if_pos (by omega), Nat.add_sub_cancel_left, BitVec.ofNat_toNat, BitVec.setWidth_eq]

/-- Settles O29: the offset of `BASE + o` is `o`. -/
theorem platformWindow : Obligations.PlatformWindow := by
  unfold Obligations.PlatformWindow
  exact fun s offset => platformAccess_of_some (platformOffset_base s.cfg offset)

/-! ## Turns -/

/-- The event makes an access that reaches the port: `State.hostEvent`, of an event. -/
def AtPort (c : Config) (e : Event) : Prop :=
  (∃ offset bytes op, e = .host offset bytes op) ∨
    ∃ address bytes op, e = .platform address bytes op ∧ (platformOffset c address).isSome = true

theorem hostEvent_of_atPort (h : AtPort s.cfg s.nextEvent.1) : s.hostEvent := by
  unfold State.hostEvent
  rcases h with ⟨offset, bytes, op, he⟩ | ⟨address, bytes, op, he, ho⟩ <;> rw [he]
  · trivial
  · exact ho

/-- Out of reset a turn answers a next state, or is an access the port refuses as a bus error (R102). -/
theorem turn_answers_or_busError (e : Event) (s : State) :
    (∃ t, turn e s = .next t) ∨ AtPort s.cfg e ∧ turn e s = .refused .busError := by
  have access (offset : BitVec 20) (bytes : Nat) (op : HostOp) :
      (∃ t, s.hostAccess offset bytes op = .next t) ∨ s.hostAccess offset bytes op = .refused .busError :=
    (em _).imp (hostAccess_answers op) (hostAccess_busError op)
  cases e with
  | host offset bytes op => exact (access offset bytes op).imp_right (⟨.inl ⟨_, _, _, rfl⟩, ·⟩)
  | platform address bytes op =>
    cases ho : platformOffset s.cfg address with
    | none => exact .inl ⟨s, platformAccess_of_none ho bytes op⟩
    | some offset =>
      have heq : turn (.platform address bytes op) s = s.hostAccess offset bytes op :=
        platformAccess_of_some ho bytes op
      rw [heq]
      exact (access offset bytes op).imp_right (⟨.inr ⟨_, _, _, rfl, ho ▸ rfl⟩, ·⟩)
  | sequencer => exact .inl (sequencerTurn_answers s)
  | scheduler => exact .inl (schedulerTurn_answers s)
  | _ => exact .inl ⟨_, rfl⟩

/-- In reset a turn answers a next state, or is an access that the port refuses (R390). -/
theorem turnInReset_answers_or_inReset (e : Event) (s : State) :
    (∃ t, turnInReset e s = .next t) ∨ AtPort s.cfg e ∧ turnInReset e s = .refused .inReset := by
  cases e with
  | host offset bytes op => exact .inr ⟨.inl ⟨_, _, _, rfl⟩, rfl⟩
  | platform address bytes op =>
    by_cases ho : (platformOffset s.cfg address).isSome = true
    · exact .inr ⟨.inr ⟨_, _, _, rfl, ho⟩, if_pos ho⟩
    · exact .inl ⟨s, if_neg ho⟩
  | _ => exact .inl ⟨_, rfl⟩

/-- A step in reset is the reset turn of the next event, listed or free. -/
theorem step_turnInReset (hr : s.env.rstN = false) : step s = turnInReset s.nextEvent.1 s.nextEvent.2 := by
  unfold step
  rcases h : s.env.events with _ | ⟨e, es⟩ <;> simp [State.nextEvent, h, State.drew, hr]

/-- Settles O12: no instruction and no agent's turn is refused, so what is refused is an access at the port. -/
theorem onlyBusAccessesRefused : Obligations.OnlyBusAccessesRefused := by
  unfold Obligations.OnlyBusAccessesRefused
  refine ⟨exec_answers, fun s offset bytes op es he hr => ?_, fun s r h => ?_⟩
  · rw [step_of_event hr he]
    refine ⟨⟨fun ⟨t, ht⟩ => ?_, hostAccess_answers op⟩, hostAccess_busError op⟩
    by_contra hbad
    cases (hostAccess_busError op hbad).symm.trans ht
  · obtain ⟨es, n, hn⟩ := nextEvent_snd (s := s)
    have hcfg : s.nextEvent.2.cfg = s.cfg := by rw [hn]
    cases hr : s.env.rstN with
    | true =>
      rw [step_turn hr] at h
      rcases turn_answers_or_busError s.nextEvent.1 s.nextEvent.2 with ⟨t, k⟩ | ⟨hp, k⟩ <;> cases k.symm.trans h
      exact ⟨hostEvent_of_atPort (hcfg ▸ hp), .inl ⟨rfl, rfl⟩⟩
    | false =>
      rw [step_turnInReset hr] at h
      rcases turnInReset_answers_or_inReset s.nextEvent.1 s.nextEvent.2 with ⟨t, k⟩ | ⟨hp, k⟩ <;> cases k.symm.trans h
      exact ⟨hostEvent_of_atPort (hcfg ▸ hp), .inr ⟨rfl, rfl⟩⟩

end Sys2Proof.Machine
end

section
/-! The windows of the host map: which word of which RAM an offset names, and what an access to it does. -/

namespace Sys2Proof.Machine

open State

variable {s : State} {c : Config} {offset : BitVec 20}

/-! ## The host map -/

theorem toNat_hostOffset {o : Nat} (h : o < 0x100000) : (BitVec.ofNat 20 o).toNat = o :=
  (BitVec.toNat_ofNat o 20).trans (Nat.mod_eq_of_lt h)

theorem hostTarget_cb {j : Nat} (ho : offset.toNat = 0x100 + 4 * j) (hj : j < 64) : hostTarget c offset = .cb j := by
  simp only [hostTarget, ho]
  rw [if_neg (by omega), if_pos (by omega), show (0x100 + 4 * j) % 0x100 / 4 = j by omega]

theorem hostTarget_gamma {n : Chan} {x : Byte} (ho : offset.toNat = 0x400 + 0x400 * n.toNat + 4 * x.toNat) :
    hostTarget c offset = .gamma n x := by
  have hx : BitVec.ofNat 8 (offset.toNat % 0x400 / 4) = x := by
    rw [show offset.toNat % 0x400 / 4 = x.toNat by omega, BitVec.ofNat_toNat, BitVec.setWidth_eq]
  simp only [hostTarget, hx]
  cases n <;> simp only [Chan.toNat] at ho
  · repeat rw [if_neg (by omega)]
    rw [if_pos (by omega)]
  · repeat rw [if_neg (by omega)]
    rw [if_pos (by omega)]

/-- The words of channel `n`'s pixel window. -/
theorem hostTarget_pixelWindow {n : Chan} {i : Nat} (ho : offset.toNat = 0x10000 + 0x10000 * n.toNat + 4 * i)
    (hi : i < 0x4000) : hostTarget c offset = pixelTarget c n i := by
  have hx : offset.toNat % 0x10000 / 4 = i := by omega
  simp only [hostTarget, hx]
  cases n <;> simp only [Chan.toNat] at ho
  · repeat rw [if_neg (by omega)]
    rw [if_pos (by omega)]
  · repeat rw [if_neg (by omega)]
    rw [if_pos (by omega)]

/-- The words of the symbol window. -/
theorem hostTarget_symWindow {k : Nat} (ho : offset.toNat = 0x40000 + 4 * k) (hk : k < 0x10000) :
    hostTarget c offset = if k < c.symWords then .sym k else .reserved := by
  have hx : offset.toNat % 0x40000 / 4 = k := by omega
  simp only [hostTarget, hx]
  repeat rw [if_neg (by omega)]
  rw [if_pos (by omega)]

/-- Below the first window an offset names the register at it, or is reserved (R51). -/
theorem hostTarget_low (c : Config) (ho : offset.toNat < 0x100) :
    hostTarget c offset = .reserved ∨ ∃ r, hostTarget c offset = .reg r ∧ r.offset = offset.toNat := by
  simp only [hostTarget, if_pos ho]
  cases h : regAt offset.toNat with
  | none => exact .inl rfl
  | some r => exact .inr ⟨r, rfl, by simpa using List.find?_some h⟩

/-- The reserved offsets below the first window are the offsets of no register (R51). -/
theorem hostTarget_noReg (h : 0x05C ≤ offset.toNat ∧ offset.toNat ≤ 0x07C ∨ offset.toNat = 0x09C ∨
    offset.toNat = 0x0BC ∨ 0x0C0 ≤ offset.toNat ∧ offset.toNat ≤ 0x0FC) : hostTarget c offset = .reserved := by
  rcases hostTarget_low c (show offset.toNat < 0x100 by omega) with k | ⟨r, -, hr⟩
  · exact k
  · rw [← hr] at h
    cases r with
    | gpio n | invert n | count n | layout n | brightness n | shifts n | latched n =>
      cases n <;> exact absurd h (by decide)
    | _ => exact absurd h (by decide)

/-- Between and after the windows nothing is mapped (R103). -/
theorem hostTarget_gap (h : 0x200 ≤ offset.toNat ∧ offset.toNat < 0x400 ∨
    0xC00 ≤ offset.toNat ∧ offset.toNat < 0x10000 ∨ 0x30000 ≤ offset.toNat ∧ offset.toNat < 0x40000 ∨
    0x80000 ≤ offset.toNat) : hostTarget c offset = .reserved := by
  simp only [hostTarget]
  rcases h with ⟨lo, hi⟩ | ⟨lo, hi⟩ | ⟨lo, hi⟩ | lo <;> repeat rw [if_neg (by omega)]
  all_goals rw [if_pos (by omega)]

/-! ## Drawn words -/

/-- A word that has a value is not a free one (R106). -/
theorem wordOr_of_some (s : State) (n : Nat) {o : Option Word} : ∀ u, o = some u → s.wordOr n o = u := by
  rintro u rfl
  rfl

/-- Settles O27: the windows' offsets name the words of CB RAM and symbol RAM, and a read answers the word there. -/
theorem symbolAndBlockWindows : Obligations.SymbolAndBlockWindows := by
  unfold Obligations.SymbolAndBlockWindows
  refine fun s => ⟨fun k hsym hk => ⟨s.wordOr 0 (s.ram.sym.word? k), ?_, wordOr_of_some s 0⟩,
    fun j hj => ⟨s.wordOr 0 (s.ram.cb.word? j), ?_, wordOr_of_some s 0⟩⟩
  · have ho : (BitVec.ofNat 20 (0x40000 + 4 * k)).toNat = 0x40000 + 4 * k := toNat_hostOffset (by omega)
    rw [hostAccess_read (by omega), hostTarget_symWindow ho hk, if_pos hsym]
    rfl
  · have ho : (BitVec.ofNat 20 (0x100 + 4 * j)).toNat = 0x100 + 4 * j := toNat_hostOffset (by omega)
    rw [hostAccess_read (by omega), hostTarget_cb ho hj]
    rfl

/-! ## Ignored writes -/

/-- At the offset of a register the host only reads, a write has no effect (R104). -/
theorem writeReg_readOnly {r : Reg} (h : r.offset = 0x004 ∨ 0x018 ≤ r.offset ∧ r.offset ≤ 0x058 ∨ r.offset = 0x094 ∨
    r.offset = 0x098 ∨ r.offset = 0x0B4 ∨ r.offset = 0x0B8) (s : State) (v : Word) : s.writeReg r v = s := by
  cases r with
  | status | cmd | freq | dmanum | gammaFactor => simp [Reg.offset] at h
  | gpio n | invert n | count n | layout n | brightness n => cases n <;> simp [Reg.offset, Chan.toNat] at h
  | _ => rfl

/-- At a read-only register or window a write has no effect (R104). -/
theorem writeTarget_readOnly (s : State) (v : Word) (h : offset.toNat = 0x004 ∨
    0x018 ≤ offset.toNat ∧ offset.toNat ≤ 0x058 ∨ offset.toNat = 0x094 ∨ offset.toNat = 0x098 ∨
    offset.toNat = 0x0B4 ∨ offset.toNat = 0x0B8 ∨ 0x100 ≤ offset.toNat ∧ offset.toNat ≤ 0x1FC ∨
    0x40000 ≤ offset.toNat ∧ offset.toNat ≤ 0x7FFFC) (ha : offset.toNat % 4 = 0) :
    s.writeTarget (hostTarget s.cfg offset) v = s := by
  by_cases hlow : offset.toNat < 0x100
  · rcases hostTarget_low s.cfg hlow with k | ⟨r, k, hr⟩ <;> rw [k]
    · rfl
    · exact writeReg_readOnly (by omega) s v
  · by_cases hcb : offset.toNat ≤ 0x1FC
    · rw [hostTarget_cb (j := (offset.toNat - 0x100) / 4) (by omega) (by omega)]
      rfl
    · rw [hostTarget_symWindow (k := (offset.toNat - 0x40000) / 4) (by omega) (by omega)]
      split <;> rfl

/-- Settles O25: what an ignored offset names, nothing or a target whose write has no effect. -/
theorem reservedAndReadOnlyOffsets : Obligations.ReservedAndReadOnlyOffsets := by
  unfold Obligations.ReservedAndReadOnlyOffsets
  rintro s offset v o rfl ha
  refine ⟨fun h => ?_, fun h => ?_⟩
  · have ht : hostTarget s.cfg offset = .reserved := by
      rcases h with h | h | h | h | h | h | h | h | ⟨lo, hi, beyond⟩ | ⟨lo, hi, beyond⟩ | ⟨lo, hi, beyond⟩
      iterate 4 exact hostTarget_noReg (by omega)
      iterate 4 exact hostTarget_gap (by omega)
      · rw [hostTarget_pixelWindow (n := .ch0) (i := (offset.toNat - 0x10000) / 4) (by rw [Chan.toNat]; omega)
          (by omega), pixelTarget, if_neg (not_lt.mpr beyond)]
      · rw [hostTarget_pixelWindow (n := .ch1) (i := (offset.toNat - 0x20000) / 4) (by rw [Chan.toNat]; omega)
          (by omega), pixelTarget, if_neg (not_lt.mpr beyond)]
      · rw [hostTarget_symWindow (k := (offset.toNat - 0x40000) / 4) (by omega) (by omega),
          if_neg (not_lt.mpr beyond)]
    rw [hostAccess_read ha, hostAccess_write ha, ht]
    exact ⟨rfl, rfl⟩
  · rw [hostAccess_write ha, hostWrite, writeTarget_readOnly s v h ha]

/-! ## The gamma and pixel windows -/

@[simp] theorem Pair.get_set_same {α : Type} (p : Pair α) (n : Chan) (v : α) : (p.set n v).get n = v := by
  cases n <;> rfl

theorem Pair.get_set_other {α : Type} {n m : Chan} (h : m ≠ n) (p : Pair α) (v : α) :
    (p.set n v).get m = p.get m := by
  cases n <;> cases m <;> trivial

theorem RState.gammaHazard_eq (q : RState) : q.gammaHazard = decide (q = .encoding) := by cases q <;> rfl

theorem RState.pixelHazard_eq (q : RState) : q.pixelHazard = decide (q = .encoding ∨ q = .submitted) := by
  cases q <;> rfl

theorem hostWrite_gamma_get (s : State) (n : Chan) (x : Byte) (v : Word) :
    (s.hostWrite (.gamma n x) v).ram.gamma.get n = (s.ram.gamma.get n).setEntry x (v.field 0 8) :=
  Pair.get_set_same _ n _

theorem hostWrite_pixel_get (s : State) (n : Chan) (i : Nat) (v : Word) :
    (s.hostWrite (.pixel n i) v).ram.pixel.get n = (s.ram.pixel.get n).setWord i v :=
  Pair.get_set_same _ n _

/-- A write of entry `x` of a gamma table changes no other byte (R105). -/
theorem hostWrite_gamma_sameBytesBut (s : State) (n : Chan) (x : Byte) (v : Word) :
    SameBytesBut s (s.hostWrite (.gamma n x) v) (fun r a => r = .gamma n ∧ a = x.toNat) := by
  intro r a h
  cases r with
  | gamma m =>
    show ((s.hostWrite (.gamma n x) v).ram.gamma.get m).read _ a = (s.ram.gamma.get m).read _ a
    by_cases hm : m = n
    · subst hm
      rw [hostWrite_gamma_get]
      exact Memory.read_write_other (fun ha => h ⟨rfl, ha⟩) _ _
    · exact congrArg (Memory.read _ · a) (Pair.get_set_other hm _ _)
  | _ => rfl

/-- A write of word `i` of pixel RAM changes no other byte (R103). -/
theorem hostWrite_pixel_sameBytesBut (s : State) (n : Chan) (i : Nat) (v : Word) :
    SameBytesBut s (s.hostWrite (.pixel n i) v) (fun r a => r = .pixel n ∧ 4 * i ≤ a ∧ a < 4 * i + 4) := by
  intro r a h
  cases r with
  | pixel m =>
    show ((s.hostWrite (.pixel n i) v).ram.pixel.get m).read _ a = (s.ram.pixel.get m).read _ a
    by_cases hm : m = n
    · subst hm
      rw [hostWrite_pixel_get]
      refine Memory.read_setWord_other ?_ _ _
      by_contra hin
      exact h ⟨rfl, by omega⟩
    · exact congrArg (Memory.read _ · a) (Pair.get_set_other hm _ _)
  | _ => rfl

/-- Settles O26: the windows' offsets name the entries and the words; a write is seen by its own read, and by no
other byte's. -/
theorem gammaAndPixelWindows : Obligations.GammaAndPixelWindows := by
  unfold Obligations.GammaAndPixelWindows
  intro s n v
  have hn : n.toNat ≤ 1 := by cases n <;> decide
  refine ⟨fun x => ?_, fun i hled hi => ?_⟩
  · have ho := toNat_hostOffset (o := 0x400 + 0x400 * n.toNat + 4 * x.toNat) (by omega)
    rw [hostAccess_read (by omega), hostAccess_write (by omega), hostTarget_gamma ho, zero_append_eq_zeroExtend]
    refine ⟨rfl, _, rfl, ?_, ?_, hostWrite_gamma_sameBytesBut s n x v⟩
    · rw [← RState.gammaHazard_eq]
      rfl
    · rw [hostWrite_gamma_get, Memory.entry_setEntry_same]
  · have ho := toNat_hostOffset (o := 0x10000 + 0x10000 * n.toNat + 4 * i) (by omega)
    rw [hostAccess_read (by omega), hostAccess_write (by omega), hostTarget_pixelWindow ho hi, pixelTarget, if_pos hled]
    refine ⟨⟨_, rfl, wordOr_of_some s 0⟩, _, rfl, ?_, ?_, hostWrite_pixel_sameBytesBut s n i v⟩
    · rw [← RState.pixelHazard_eq]
      rfl
    · rw [hostWrite_pixel_get, Memory.word?_setWord_same]

end Sys2Proof.Machine
end

section
/-! The two instruction spaces: decoding is inverse to encoding, word by word and over bytes (R140 to R144, R160 to
R163). -/

namespace Sys2Proof.Machine

/-! ## Words at the front of a byte string -/

/-- The bytes of a list of words are read as those words, and the bytes after them are left (R109). -/
theorem takeWords_bytes (ws : List Word) (rest : List Byte) :
    takeWords ws.length (ws.flatMap Word.bytes ++ rest) = some (ws, rest) := by
  induction ws with
  | nil => rfl
  | cons w ws ih =>
    show takeWords (ws.length + 1)
      (w.byte 0 :: w.byte 1 :: w.byte 2 :: w.byte 3 :: (ws.flatMap Word.bytes ++ rest)) = _
    rw [takeWords, ih, wordOfBytes_bytes]

theorem decode_command_bytes (w : Word) (rest : List Byte) :
    decode .command ([w].flatMap Word.bytes ++ rest) = .ok (decodeCmd w, rest) := by
  have read := takeWords_bytes [w] rest
  rw [List.length_singleton] at read
  simp only [decode, read]

theorem decode_controlBlock_bytes (w0 w1 w2 w3 w4 w5 w6 w7 : Word) (rest : List Byte) {i : Instr}
    (h : decodeBlock w0 w1 w2 w3 w4 w5 w6 w7 = .ok i) :
    decode .controlBlock ([w0, w1, w2, w3, w4, w5, w6, w7].flatMap Word.bytes ++ rest) = .ok (i, rest) := by
  have read : takeWords 8 _ = _ := takeWords_bytes [w0, w1, w2, w3, w4, w5, w6, w7] rest
  simp only [decode, read, h]

/-! ## The command word -/

@[simp] theorem bit_chanOfBit (b : Bool) : (chanOfBit b).bit = b := by cases b <;> rfl

/-- The legal commands: SET_GAMMA with either channel, and the other four with `CH = 0` (R144). -/
theorem legalCommand_iff {op : Byte} {ch : Bool} {r : BitVec 23} :
    legalCommand op ch r = true ↔ r = 0#23 ∧
      (ch = false ∧ (op = 0x01#8 ∨ op = 0x02#8 ∨ op = 0x03#8 ∨ op = 0x04#8) ∨ op = 0x05#8) := by
  simp only [legalCommand, opcodeKnown, Bool.and_eq_true, Bool.or_eq_true, beq_iff_eq, Bool.not_eq_true']
  tauto

/-- The word of a well-formed command decodes to it (R141 to R144). -/
theorem decodeCmd_of_encode_eq {i : Instr} {w : Word} (wf : i.wellFormed = true) (h : encode i = [w]) :
    decodeCmd w = i := by
  cases i with
  | init | fini | render | wait =>
    cases h
    decide
  | setGamma ch =>
    cases h
    cases ch <;> decide
  | cmdMalformed op ch r =>
    cases h
    have illegal : legalCommand op ch r = false := by simpa [Instr.wellFormed] using wf
    simp [decodeCmd, illegal]
  | cb b => cases h

/-- No bit of a command word is dropped (R141). -/
theorem encode_decodeCmd (w : Word) : encode (decodeCmd w) = [w] := by
  have fields := cmdWord_fields w
  unfold decodeCmd
  split
  next legal =>
    obtain ⟨hr, ⟨hc, hop | hop | hop | hop⟩ | hop⟩ := legalCommand_iff.mp legal
    iterate 4 simpa [encode, hr, hc, hop] using fields
    simpa [encode, hr, hop] using fields
  next => exact congrArg (fun v => [v]) fields

theorem decodeCmd_wellFormed (w : Word) : (decodeCmd w).wellFormed = true := by
  unfold decodeCmd
  split
  · repeat' split
    all_goals rfl
  next illegal => simpa [Instr.wellFormed] using illegal

/-! ## The control block -/

/-- The control block of eight words, the reserved `TI` bits dropped (R160). -/
def blockOfWords (w0 w1 w2 w3 w4 w5 w6 w7 : Word) : CtrlBlock :=
  { ti := tiFields w0, sourceAd := w1, destAd := w2, txfrLen := w3, stride := w4, nextConbk := w5, word6 := w6,
    word7 := w7 }

/-- Eight words decode, to their fields, exactly when no reserved `TI` bit is set (R160, R161). -/
theorem decodeBlock_ok_iff {w0 w1 w2 w3 w4 w5 w6 w7 : Word} {i : Instr} :
    decodeBlock w0 w1 w2 w3 w4 w5 w6 w7 = .ok i ↔
      w0 &&& tiReservedMask = 0#32 ∧ .cb (blockOfWords w0 w1 w2 w3 w4 w5 w6 w7) = i := by
  unfold decodeBlock
  split
  next clear => simp [clear, blockOfWords]
  next reserved => simp [reserved]

/-- The words of a block decode to it: `tiWord` sets no reserved bit (R161). -/
theorem decodeBlock_encode (b : CtrlBlock) :
    decodeBlock (tiWord b.ti) b.sourceAd b.destAd b.txfrLen b.stride b.nextConbk b.word6 b.word7 = .ok (.cb b) :=
  decodeBlock_ok_iff.mpr ⟨tiWord_reserved b.ti, by rw [blockOfWords, tiFields_tiWord]⟩

theorem permapLegal_iff {p : BitVec 5} : permapLegal p = true ↔ p = 0#5 ∨ p = 2#5 ∨ p = 5#5 ∨ p = 6#5 := by
  simp [permapLegal, or_assoc]

/-- The checks a fetch makes of a block beyond its reserved `TI` bits (R163). -/
theorem CtrlBlock.wellFormed_iff {b : CtrlBlock} : b.wellFormed = true ↔
    (b.ti.permap = 0#5 ∨ b.ti.permap = 2#5 ∨ b.ti.permap = 5#5 ∨ b.ti.permap = 6#5) ∧
      b.txfrLen.field 30 2 = 0#2 ∧ b.stride = 0#32 := by
  simp only [CtrlBlock.wellFormed, CtrlBlock.lengthLegal, CtrlBlock.strideLegal, Bool.and_eq_true, beq_iff_eq,
    permapLegal_iff, Word.field, and_assoc]

/-! ## The statements -/

/-- Settles O2: the bytes of an instruction are read as its words, and the words of either space decode to it. -/
theorem decodeInvertsEncode : Obligations.DecodeInvertsEncode := by
  unfold Obligations.DecodeInvertsEncode
  intro i rest wf
  have command {w : Word} (hs : i.space = .command) (hw : encode i = [w]) :
      decode i.space (encodeBytes i ++ rest) = .ok (i, rest) := by
    rw [hs, encodeBytes, hw, decode_command_bytes, decodeCmd_of_encode_eq wf hw]
  cases i with
  | cb b => exact decode_controlBlock_bytes _ _ _ _ _ _ _ _ rest (decodeBlock_encode b)
  | _ => exact command rfl rfl

/-- Settles O3: a command word is its three fields, a `TI` word without reserved bits its five, and what R163 checks
beside the reserved bits is well-formedness. -/
theorem encodeInvertsDecode : Obligations.EncodeInvertsDecode := by
  unfold Obligations.EncodeInvertsDecode
  refine ⟨fun w => ⟨encode_decodeCmd w, decodeCmd_wellFormed w⟩, fun w0 w1 w2 w3 w4 w5 w6 w7 i h => ?_,
    fun w0 w1 w2 w3 w4 w5 w6 w7 => ?_⟩
  · obtain ⟨clear, rfl⟩ := decodeBlock_ok_iff.mp h
    rw [encode, blockOfWords, tiWord_tiFields w0 clear]
  · calc (∃ i, decodeBlock w0 w1 w2 w3 w4 w5 w6 w7 = .ok i ∧ i.wellFormed = true)
      _ ↔ w0 &&& tiReservedMask = 0#32 ∧ (blockOfWords w0 w1 w2 w3 w4 w5 w6 w7).wellFormed = true := by
        simp only [decodeBlock_ok_iff, and_assoc, exists_and_left, exists_eq_left', Instr.wellFormed]
      _ ↔ _ := and_congr_right' CtrlBlock.wellFormed_iff

/-- Settles O1: each listed word evaluated. -/
theorem decodesSpecWords : Obligations.DecodesSpecWords := by
  unfold Obligations.DecodesSpecWords
  decide

end Sys2Proof.Machine
end

section
/-! The layout code (R145 to R147): its round trip, and which codes are supported. -/

namespace Sys2Proof.Machine

/-! ## The round trip -/

/-- A layout code is the word whose bytes, lowest first, are `S2`, `S1`, `S0`, `S3` (R146). -/
theorem layoutOfShifts_layoutShifts (l : Word) : layoutOfShifts (layoutShifts l) = l := wordOfBytes_bytes l

theorem layoutShifts_layoutOfShifts (h : Shifts) : layoutShifts (layoutOfShifts h) = h := by
  obtain ⟨s0, s1, s2, s3⟩ := h
  simp only [layoutShifts, layoutOfShifts, Shifts.mk.injEq, field_eq_iff, BitVec.getLsbD_append]
  refine ⟨?_, ?_, ?_, ?_⟩ <;> (intro i hi; interval_cases i <;> rfl)

/-- `WPRESENT` is the top half of `S3` (R145, R146). -/
theorem layoutWhite_iff (l : Word) : layoutWhite l = true ↔ 16 ≤ (layoutShifts l).s3.toNat := by
  have top : (l.field 28 4).toNat = (l.field 24 8).toNat / 16 := by
    simp only [Word.field, BitVec.extractLsb'_toNat, Nat.shiftRight_eq_div_pow]
    omega
  rw [layoutWhite, bne_iff_ne, Ne, ← BitVec.toNat_inj, top]
  simp only [layoutShifts, BitVec.toNat_ofNat]
  omega

/-- Settles O5: a layout code is four bytes, and `WPRESENT` is the top half of one of them. -/
theorem layoutRoundTrip : Obligations.LayoutRoundTrip := by
  unfold Obligations.LayoutRoundTrip
  exact ⟨fun l => ⟨rfl, layoutOfShifts_layoutShifts l, layoutWhite_iff l⟩, layoutShifts_layoutOfShifts⟩

/-! ## Supported codes -/

theorem bytePosition_iff {x : Byte} : bytePosition x = true ↔ x ∈ [0#8, 8#8, 16#8, 24#8] := by
  simp [bytePosition, or_assoc]

/-- A list as long as one without repetitions is a permutation of it when it has no repetitions and the same
members. -/
theorem perm_iff_nodup_subset {α : Type} {a b : List α} (hb : b.Nodup) (hlen : b.length = a.length) :
    a.Perm b ↔ a.Nodup ∧ ∀ x ∈ a, x ∈ b :=
  ⟨fun h => ⟨h.nodup_iff.mpr hb, fun _ => h.mem_iff.mp⟩,
    fun ⟨ha, hsub⟩ => (ha.subperm hsub).perm_of_length_le hlen.le⟩

/-- The shifts that R147 tests: all four with white present, the first three without. -/
def testedShifts (l : Word) : List Byte :=
  let h := layoutShifts l
  if layoutWhite l then [h.s0, h.s1, h.s2, h.s3] else [h.s0, h.s1, h.s2]

/-- A code is supported when the tested shifts are different byte positions (R147). -/
theorem layoutSupported_iff (l : Word) : layoutSupported l = true ↔
    (testedShifts l).Nodup ∧ ∀ x ∈ testedShifts l, x ∈ [0#8, 8#8, 16#8, 24#8] := by
  simp only [← bytePosition_iff, layoutSupported, testedShifts]
  split <;>
    simp only [Bool.and_eq_true, bne_iff_ne, List.nodup_cons, List.nodup_nil, List.mem_cons, List.not_mem_nil,
      forall_eq_or_imp, not_or] <;>
    tauto

/-- Settles O6: a list of four different byte positions is a permutation of all of them. -/
theorem supportedLayouts : Obligations.SupportedLayouts := by
  unfold Obligations.SupportedLayouts
  rintro l h rfl
  refine ⟨fun white => ?_, fun noWhite => ?_, ?_⟩
  · rw [layoutSupported_iff, testedShifts, if_pos white]
    exact (perm_iff_nodup_subset (by decide) (by rfl)).symm
  · rw [layoutSupported_iff, testedShifts, noWhite]
    rfl
  · rintro r a rfl
    rfl

end Sys2Proof.Machine
end

section
/-! The divider's arithmetic (R192, R193): it is the divider with the smallest frequency error. -/

namespace Sys2Proof.Machine

variable {hz freq d e q : Nat}

/-- `|core_hz / d − 3 · freq|` (R192). -/
def dividerError (hz freq d : Nat) : ℚ := |(hz : ℚ) / d - 3 * freq|

/-- The four ways `computeDivider` ends, by the place of `core_hz` between two multiples of `3 · freq` (R192). -/
theorem computeDivider_cases (hz : Nat) (hf : 0 < freq) :
    (hz < 3 * freq ∧ computeDivider hz freq = 1) ∨
    (∃ q, 0 < q ∧ hz = 3 * freq * q ∧ computeDivider hz freq = q) ∨
    (∃ q, 0 < q ∧ 3 * freq * q < hz ∧ hz < 3 * freq * (q + 1) ∧
      (hz * (q + (q + 1)) ≤ 2 * (3 * freq) * q * (q + 1) ∧ computeDivider hz freq = q ∨
        2 * (3 * freq) * q * (q + 1) < hz * (q + (q + 1)) ∧ computeDivider hz freq = q + 1)) := by
  have division : 3 * freq * (hz / (3 * freq)) + hz % (3 * freq) = hz := Nat.div_add_mod hz (3 * freq)
  have small : hz % (3 * freq) < 3 * freq := Nat.mod_lt _ (by omega)
  unfold computeDivider subBitFreq spb
  dsimp only
  split_ifs with zero divides near
  · exact .inl ⟨(Nat.div_eq_zero_iff_lt (by omega)).mp zero, rfl⟩
  · exact .inr (.inl ⟨_, Nat.pos_of_ne_zero zero, by omega, rfl⟩)
  all_goals
    refine .inr (.inr ⟨hz / (3 * freq), Nat.pos_of_ne_zero zero, by omega, by rw [Nat.mul_add]; omega, ?_⟩)
  · exact .inl ⟨near, rfl⟩
  · exact .inr ⟨Nat.lt_of_not_le near, rfl⟩

/-! ## The error on either side of the target -/

theorem dividerError_of_mul_le (hd : 0 < d) (h : 3 * freq * d ≤ hz) :
    dividerError hz freq d = (hz : ℚ) / d - 3 * freq := by
  have : (3 * freq : ℚ) ≤ hz / d := by
    rw [le_div_iff₀ (by exact_mod_cast hd)]
    exact_mod_cast h
  exact abs_of_nonneg (sub_nonneg.mpr this)

theorem dividerError_of_le_mul (hd : 0 < d) (h : hz ≤ 3 * freq * d) :
    dividerError hz freq d = 3 * freq - (hz : ℚ) / d := by
  have : (hz / d : ℚ) ≤ 3 * freq := by
    rw [div_le_iff₀ (by exact_mod_cast hd)]
    exact_mod_cast h
  rw [dividerError, abs_of_nonpos (sub_nonpos.mpr this), neg_sub]

/-- Above the target frequency, the error falls as the divider grows. -/
theorem dividerError_lt_of_lt (hf : 0 < freq) (he : 0 < e) (hlt : e < d) (h : 3 * freq * d ≤ hz) :
    dividerError hz freq d < dividerError hz freq e := by
  have hz0 : 0 < hz := lt_of_lt_of_le (by have := he.trans hlt; positivity) h
  rw [dividerError_of_mul_le (he.trans hlt) h,
    dividerError_of_mul_le he ((Nat.mul_le_mul_left _ hlt.le).trans h)]
  gcongr

/-- Below the target frequency, the error grows with the divider. -/
theorem dividerError_le_of_le (hd : 0 < d) (hle : d ≤ e) (h : hz ≤ 3 * freq * d) :
    dividerError hz freq d ≤ dividerError hz freq e := by
  rw [dividerError_of_le_mul hd h,
    dividerError_of_le_mul (hd.trans_le hle) (h.trans (Nat.mul_le_mul_left _ hle))]
  gcongr

/-- The two dividers around the target frequency are compared on integers (R192). -/
theorem dividerError_le_succ_iff (hq : 0 < q) (hlo : 3 * freq * q ≤ hz) (hhi : hz ≤ 3 * freq * (q + 1)) :
    dividerError hz freq q ≤ dividerError hz freq (q + 1) ↔
      hz * (q + (q + 1)) ≤ 2 * (3 * freq) * q * (q + 1) := by
  have hq' : (0 : ℚ) < q := by exact_mod_cast hq
  have sum : (hz : ℚ) / q + hz / (q + 1) = hz * (q + (q + 1)) / (q * (q + 1)) := by
    field_simp
    ring
  rw [dividerError_of_mul_le hq hlo, dividerError_of_le_mul (Nat.succ_pos q) hhi]
  calc (hz : ℚ) / q - 3 * freq ≤ 3 * freq - hz / ((q + 1 : Nat) : ℚ)
    _ ↔ (hz : ℚ) / q + hz / (q + 1) ≤ 2 * (3 * freq) := by
      push_cast
      constructor <;> intro h <;> linarith
    _ ↔ (hz : ℚ) * (q + (q + 1)) ≤ 2 * (3 * freq) * (q * (q + 1)) := by
      rw [sum, div_le_iff₀ (by positivity)]
    _ ↔ hz * (q + (q + 1)) ≤ 2 * (3 * freq) * q * (q + 1) := by
      rw [← mul_assoc]
      exact_mod_cast Iff.rfl

/-! ## The least error -/

/-- Every smaller divider has a greater error and no larger one has a smaller (R192). -/
theorem computeDivider_least (hz : Nat) (hf : 0 < freq) :
    0 < computeDivider hz freq ∧
      (∀ e, 0 < e → e < computeDivider hz freq →
        dividerError hz freq (computeDivider hz freq) < dividerError hz freq e) ∧
      ∀ e, computeDivider hz freq ≤ e →
        dividerError hz freq (computeDivider hz freq) ≤ dividerError hz freq e := by
  rcases computeDivider_cases hz hf with ⟨hlt, k⟩ | ⟨q, hq, hqz, k⟩ | ⟨q, hq, hlo, hhi, ⟨near, k⟩ | ⟨near, k⟩⟩ <;>
    rw [k]
  · exact ⟨Nat.one_pos, fun e he h => by omega, fun e h => dividerError_le_of_le Nat.one_pos h (by omega)⟩
  · exact ⟨hq, fun e he h => dividerError_lt_of_lt hf he h hqz.ge, fun e h => dividerError_le_of_le hq h hqz.le⟩
  · refine ⟨hq, fun e he h => dividerError_lt_of_lt hf he h hlo.le, fun e h => ?_⟩
    rcases h.eq_or_lt with rfl | h
    · exact le_rfl
    · exact ((dividerError_le_succ_iff hq hlo.le hhi.le).mpr near).trans
        (dividerError_le_of_le (Nat.succ_pos q) h hhi.le)
  · refine ⟨Nat.succ_pos q, fun e he h => ?_, fun e h => dividerError_le_of_le (Nat.succ_pos q) h hhi.le⟩
    have above : dividerError hz freq (q + 1) < dividerError hz freq q :=
      lt_of_not_ge fun k => near.not_ge ((dividerError_le_succ_iff hq hlo.le hhi.le).mp k)
    rcases (Nat.le_of_lt_succ h).eq_or_lt with rfl | h
    · exact above
    · exact above.trans (dividerError_lt_of_lt hf he h hlo.le)

/-- The divider is 1 up to the clock frequency at which 1 and 2 have the same error (R193). -/
theorem computeDivider_eq_one_iff (hz : Nat) (hf : 0 < freq) :
    computeDivider hz freq = 1 ↔ 3 * hz ≤ 4 * (3 * freq) := by
  rcases computeDivider_cases hz hf with ⟨hlt, k⟩ | ⟨q, hq, rfl, k⟩ | ⟨q, hq, hlo, hhi, near⟩
  · rw [k]
    omega
  · rw [k]
    obtain rfl | two : q = 1 ∨ 2 ≤ q := by omega
    · omega
    · have := Nat.mul_le_mul_left (3 * freq) two
      omega
  · obtain rfl | two : q = 1 ∨ 2 ≤ q := by omega
    · rcases near with ⟨near, k⟩ | ⟨near, k⟩ <;> rw [k] <;> omega
    · have := Nat.mul_le_mul_left (3 * freq) two
      rcases near with ⟨-, k⟩ | ⟨-, k⟩ <;> rw [k] <;> omega

/-- Settles O60: a divider with the same error as the least one is not below it, where every error is greater. -/
theorem dividerMinimises : Obligations.DividerMinimises := by
  unfold Obligations.DividerMinimises
  intro hz freq hf
  obtain ⟨pos, below, above⟩ := computeDivider_least hz hf
  refine ⟨pos, fun e he => ⟨?_, fun tie => ?_⟩, computeDivider_eq_one_iff hz hf⟩
  · rcases lt_or_ge e (computeDivider hz freq) with h | h
    · exact (below e he h).le
    · exact above e h
  · exact le_of_not_gt fun h => (below e he h).ne' tie

end Sys2Proof.Machine
end

section
/-! Who writes the clock's two fields (R199, R201), and INIT's clock steps one by one (R198). -/

namespace Sys2Proof.Machine

open State

variable {s t : State}

/-! ## The turns that leave the clock -/

theorem encodeStep_clk (g0 g1 : List Word) : (s.encodeStep g0 g1).clk = s.clk := by
  rcases encodeStep_cases (s := s) g0 g1 with ⟨-, k⟩ | ⟨-, -, k⟩ | ⟨-, -, k⟩ <;> rw [k] <;> rfl

theorem buildPhase_clk : s.buildPhase.clk = s.clk := by
  rcases buildPhase_cases (s := s) with ⟨-, k⟩ | ⟨-, k⟩
  · rw [k]
  · rw [k, buildChain_clk]

theorem execRender_clk (h : execRender s = .next t) : t.clk = s.clk := by
  rcases execRender_cases h with ⟨-, ⟨-, rfl⟩ | ⟨-, rfl⟩⟩ | ⟨-, ⟨-, rfl⟩ | ⟨_, -, -, rfl⟩ | ⟨-, -, rfl⟩⟩ | ⟨-, rfl⟩ |
    ⟨g0, g1, -, rfl⟩ | ⟨-, rfl⟩ | ⟨-, rfl⟩ | ⟨-, rfl⟩ | ⟨-, rfl⟩
  case inr.inr.inr.inl => exact encodeStep_clk g0 g1
  case inr.inr.inr.inr.inl => exact buildPhase_clk
  all_goals rfl

theorem execWait_clk (h : execWait s = .next t) : t.clk = s.clk := by
  rcases execWait_cases h with ⟨_, -, ⟨-, rfl⟩ | ⟨-, -, rfl⟩ | ⟨-, -, -, rfl⟩⟩ | ⟨-, rfl⟩ | ⟨-, rfl⟩ | ⟨-, -, rfl⟩ <;> rfl

theorem execSetGamma_clk {ch : Chan} (h : execSetGamma ch s = .next t) : t.clk = s.clk := by
  rcases execSetGamma_cases h with ⟨-, rfl⟩ | ⟨-, rfl⟩ <;> rfl

theorem tick_clk : s.tick.clk = s.clk := by
  rcases tick_cases (s := s) with ⟨-, k⟩ | ⟨-, -, -, k⟩ | ⟨-, -, -, k⟩ | ⟨-, -, k⟩ <;> rw [k] <;> rfl

theorem hostRead_clk (target : HostTarget) : (s.hostRead target).clk = s.clk := by
  cases target with
  | reg r => cases r <;> rfl
  | _ => rfl

/-- `CLK_CTL` and `CLK_DIV` are read-only (R104). -/
theorem hostWrite_clk (target : HostTarget) (v : Word) : (s.hostWrite target v).clk = s.clk := by
  cases target with
  | reg r => cases r <;> rfl
  | _ => rfl

theorem hostAccess_clk {offset : BitVec 20} {bytes : Nat} {op : HostOp} (h : s.hostAccess offset bytes op = .next t) :
    t.clk = s.clk := by
  obtain ⟨-, ⟨-, rfl⟩ | ⟨v, -, rfl⟩⟩ := hostAccess_cases h
  · exact hostRead_clk _
  · exact hostWrite_clk _ v

/-- A turn leaves the clock, or it is the sequencer's and INIT or FINI runs (R201). -/
theorem turn_clk {e : Event} (h : turn e s = .next t) :
    t.clk = s.clk ∨ e = .sequencer ∧ s.seq.cmdBusy = true ∧
      (decodeCmd s.seq.cmd = .init ∧ execInit s = .next t ∨ decodeCmd s.seq.cmd = .fini ∧ execFini s = .next t) := by
  cases e with
  | host offset bytes op => exact .inl (hostAccess_clk h)
  | platform address bytes op =>
    rcases platformAccess_cases h with ⟨_, -, k⟩ | ⟨-, rfl⟩
    · exact .inl (hostAccess_clk k)
    · exact .inl rfl
  | sequencer =>
    rcases sequencerTurn_cases h with ⟨hb, k⟩ | ⟨-, rfl⟩
    · cases hc : decodeCmd s.seq.cmd <;> rw [hc] at k
      case init => exact .inr ⟨rfl, hb, .inl ⟨rfl, k⟩⟩
      case fini => exact .inr ⟨rfl, hb, .inr ⟨rfl, k⟩⟩
      case render => exact .inl (execRender_clk k)
      case wait => exact .inl (execWait_clk k)
      case setGamma ch => exact .inl (execSetGamma_clk k)
      case cmdMalformed op ch rsvd => exact .inl (Host.Outcome.next.inj k ▸ rfl)
      case cb b => exact absurd hc (decodeCmd_ne_cb _ b)
    · exact .inl rfl
  | scheduler => exact .inl (schedulerTurn_sameCommand h).1.clk
  | serializer => exact .inl (Host.Outcome.next.inj h ▸ tick_clk)
  | clockManager | timer | resetLow | resetHigh | setProfileId v => exact .inl (Host.Outcome.next.inj h ▸ rfl)

/-- Settles O16: no other turn writes the clock. -/
theorem onlyInitAndFiniTouchClock : Obligations.OnlyInitAndFiniTouchClock := by
  unfold Obligations.OnlyInitAndFiniTouchClock
  intro s t hr ht hn
  obtain ⟨es, n, k⟩ := step_turn_cases hr ht
  exact (turn_clk k).resolve_right fun ⟨he, hb, hc⟩ => hn ⟨he, hb, hc.imp And.left And.left⟩

/-! ## The step that programs the divider -/

/-- INIT writes the divider in one step only, once the clock has stopped (step B of R198). -/
theorem execInit_divi (h : execInit s = .next t) :
    t.clk.divi = s.clk.divi ∨ ∃ a t0, s.seq.phase = .initProgram a t0 ∧ s.env.busy = false ∧
      t = (s.setDivi a.divi).goto (.initEnable a) .none := by
  rcases execInit_cases h with ⟨_, -, rfl⟩ | ⟨a, t0, hp, ⟨-, rfl⟩ | ⟨-, -, rfl⟩ | ⟨-, hbusy, rfl⟩⟩ | ⟨_, -, rfl⟩ |
    ⟨_, _, -, ⟨-, rfl⟩ | ⟨-, -, rfl⟩ | ⟨-, -, rfl⟩⟩ | ⟨_, -, rfl⟩ | ⟨_, -, rfl⟩
  case inr.inl.inr.inr => exact .inr ⟨a, t0, hp, hbusy, rfl⟩
  all_goals exact .inl rfl

theorem execFini_divi (h : execFini s = .next t) : t.clk.divi = s.clk.divi := by
  rcases execFini_cases h with ⟨-, rfl⟩ | ⟨_, -, ⟨-, rfl⟩ | ⟨-, rfl⟩⟩ | ⟨-, rfl⟩ | ⟨-, rfl⟩ <;> rfl

/-- The phase before step B has `ENAB` 0. -/
theorem State.PhaseOk.initProgram_enab {a : InitArgs} {t0 : BitVec 64} (h : s.PhaseOk)
    (hp : s.seq.phase = .initProgram a t0) : s.clk.enab = false := by
  unfold State.PhaseOk at h
  obtain ⟨-, -, -, henab⟩ := hp ▸ h
  exact henab

/-- The phase before INIT's commit: `ENAB` 1, and `DIVI` programmed. -/
theorem State.PhaseOk.initCommit_clk {a : InitArgs} {t0 : BitVec 64} (h : s.PhaseOk)
    (hp : s.seq.phase = .initCommit a t0) :
    s.seq.state = .uninit ∧ s.clk.enab = true ∧ s.clk.divi = a.divi := by
  unfold State.PhaseOk at h
  obtain ⟨-, hu, -, clk⟩ := hp ▸ h
  exact ⟨hu, clk⟩

/-- INIT enters `IDLE` at its commit, with the clock running (R312). -/
theorem execInit_idle (hu : s.seq.state = .uninit) (h : execInit s = .next t) (hi : t.seq.state = .idle) :
    t.env.busy = true ∧ t.clk = s.clk := by
  have stays : s.seq.state ≠ .idle := by simp [hu]
  rcases execInit_cases h with ⟨_, -, rfl⟩ | ⟨_, _, -, ⟨-, rfl⟩ | ⟨-, -, rfl⟩ | ⟨-, -, rfl⟩⟩ | ⟨_, -, rfl⟩ |
    ⟨_, _, -, ⟨-, rfl⟩ | ⟨-, -, rfl⟩ | ⟨-, hbusy, rfl⟩⟩ | ⟨_, -, rfl⟩ | ⟨_, -, rfl⟩
  case inr.inr.inr.inl.inr.inr => exact ⟨hbusy, rfl⟩
  all_goals exact absurd hi stays

/-- Settles O15: the step that programs the divider finds `ENAB` 0 by the invariant and `BUSY` 0 by its own test, and
writes neither. -/
theorem dividerChangesStopped : Obligations.DividerChangesStopped := by
  unfold Obligations.DividerChangesStopped
  refine ⟨fun s t hinv hr ht hne => ?_, fun s t a t0 hinv hp ht hi => ?_⟩
  · obtain ⟨es, n, k⟩ := step_turn_cases hr ht
    rcases turn_clk k with hclk | ⟨-, -, ⟨-, k⟩ | ⟨-, k⟩⟩
    · exact absurd (congrArg Clk.divi hclk) hne
    · rcases execInit_divi k with hdivi | ⟨a, t0, hp, hbusy, rfl⟩
      · exact absurd hdivi hne
      · have henab := hinv.phase.initProgram_enab hp
        exact ⟨henab, hbusy, henab, hbusy⟩
    · exact absurd (execFini_divi k) hne
  · obtain ⟨hu, henab, hdivi⟩ := hinv.phase.initCommit_clk hp
    obtain ⟨hbusy, hclk⟩ := execInit_idle hu ht hi
    rw [hclk]
    exact ⟨hdivi, henab, hbusy⟩

/-! ## Holds on the clock -/

/-- A hold waits while the clock manager has not answered and the bound, if any, has not passed (R197, R198). -/
theorem clockHoldOver_eq_false_iff {target : Bool} {t0 : BitVec 64} : s.clockHoldOver target t0 = false ↔
    s.env.busy = !target ∧ ¬ (s.cfg.clockMayFail = true ∧ t0.toNat + s.cfg.clkTimeoutUs ≤ s.tim.timeUs.toNat) := by
  simp [clockHoldOver, elapsed, Bool.eq_not]

theorem clockHoldOver_of_busy {target : Bool} (hb : s.env.busy = target) (t0 : BitVec 64) :
    s.clockHoldOver target t0 = true := by
  simp [clockHoldOver, hb]

theorem clockHoldOver_of_late {t0 : BitVec 64} (target : Bool)
    (h : s.cfg.clockMayFail = true ∧ t0.toNat + s.cfg.clkTimeoutUs ≤ s.tim.timeUs.toNat) :
    s.clockHoldOver target t0 = true := by
  simp [clockHoldOver, elapsed, h]

/-- `HOLD` is `CLOCK` where a hold begins that is not over at once (R198). -/
theorem clockHold_eq_clock_iff {target : Bool} : s.clockHold target = .clock ↔
    s.env.busy = !target ∧ ¬ (s.cfg.clockMayFail = true ∧ s.cfg.clkTimeoutUs = 0) := by
  simp [clockHold, clockHoldOver, elapsed, Bool.eq_not]

/-! ## INIT's clock steps -/

section Phases
variable {a : InitArgs} {t0 : BitVec 64}

theorem execInit_initDisable (hp : s.seq.phase = .initDisable a) : execInit s =
    .next ((s.setEnab false).goto (.initProgram a s.tim.timeUs) (s.clockHold false)) := by
  simp only [execInit, hp]

theorem execInit_initProgram (hp : s.seq.phase = .initProgram a t0) : execInit s =
    if !s.clockHoldOver false t0 then .next s
    else if s.env.busy then .next (s.complete a.mode.setupErr)
    else .next ((s.setDivi a.divi).goto (.initEnable a) .none) := by
  simp only [execInit, hp]

theorem execInit_initEnable (hp : s.seq.phase = .initEnable a) : execInit s =
    .next ((s.setEnab true).goto (.initCommit a s.tim.timeUs) (s.clockHold true)) := by
  simp only [execInit, hp]

theorem execInit_initCommit (hp : s.seq.phase = .initCommit a t0) : execInit s =
    if !s.clockHoldOver true t0 then .next s
    else if !s.env.busy then .next ((s.setEnab false).complete a.mode.setupErr)
    else .next ((s.initCommit a).complete .success) := by
  simp only [execInit, hp]

end Phases

/-- Settles O31: each phase's equation, with what is known of the hold. -/
theorem initProgramsClock : Obligations.InitProgramsClock := by
  unfold Obligations.InitProgramsClock
  intro s a t0 late lateAtOnce setupErr
  have hcode : a.mode.setupErr = setupErr := rfl
  refine ⟨fun hp => ?_, fun hp => ⟨fun hb hl => ?_, fun hb hl => ?_, fun hb => ?_⟩, fun hp => ?_,
    fun hp => ⟨fun hb hl => ?_, fun hb hl => ?_, fun hb => ?_⟩⟩ <;> simp only [exec]
  · exact ⟨_, (clockHold_cases s false).symm, clockHold_eq_clock_iff, execInit_initDisable hp⟩
  · rw [execInit_initProgram hp, clockHoldOver_eq_false_iff.mpr ⟨hb, hl⟩]
    rfl
  · rw [execInit_initProgram hp, clockHoldOver_of_late false hl, hb, hcode]
    rfl
  · rw [execInit_initProgram hp, clockHoldOver_of_busy hb, hb]
    rfl
  · exact ⟨_, (clockHold_cases s true).symm, clockHold_eq_clock_iff, execInit_initEnable hp⟩
  · rw [execInit_initCommit hp, clockHoldOver_eq_false_iff.mpr ⟨hb, hl⟩]
    rfl
  · rw [execInit_initCommit hp, clockHoldOver_of_late true hl, hb, hcode]
    rfl
  · rw [execInit_initCommit hp, clockHoldOver_of_busy hb, hb]
    exact ⟨_, rfl, rfl, rfl, rfl, rfl⟩

end Sys2Proof.Machine
end

section
/-! The encoder's per-pixel transform (R213 to R215, R224). -/

namespace Sys2Proof.Machine

/-! ## Brightness scaling -/

theorem toNat_scale (c b : Byte) : (scale c b).toNat = (c.toNat * b.toNat + 127) / 255 := by
  have hle : c.toNat * b.toNat ≤ 255 * 255 :=
    Nat.mul_le_mul (Nat.le_of_lt_succ c.isLt) (Nat.le_of_lt_succ b.isLt)
  rw [scale, BitVec.toNat_ofNat, Nat.mod_eq_of_lt (by omega), Nat.add_comm]

@[simp] theorem scale_full (c : Byte) : scale c 255#8 = c := by
  apply BitVec.eq_of_toNat_eq
  rw [toNat_scale, BitVec.toNat_ofNat]
  omega

@[simp] theorem scale_dark (c : Byte) : scale c 0#8 = 0#8 := by
  apply BitVec.eq_of_toNat_eq
  simp [toNat_scale]

@[simp] theorem scale_zero (b : Byte) : scale 0#8 b = 0#8 := by
  apply BitVec.eq_of_toNat_eq
  simp [toNat_scale]

/-- Scaling is nondecreasing in both arguments together. -/
theorem scale_mono {c c' b b' : Byte} (hc : c ≤ c') (hb : b ≤ b') : scale c b ≤ scale c' b' := by
  rw [BitVec.le_def, toNat_scale, toNat_scale]
  exact Nat.div_le_div_right (Nat.add_le_add_right (Nat.mul_le_mul hc hb) 127)

/-- No brightness is above 255, at which scaling changes nothing. -/
theorem scale_le (c b : Byte) : scale c b ≤ c :=
  calc scale c b ≤ scale c 255#8 := scale_mono (BitVec.le_refl c) (Nat.le_of_lt_succ b.isLt)
    _ = c := scale_full c

/-- Settles O44: the sizes by the division's remainder, the order from the product's. -/
theorem scaleRounds : Obligations.ScaleRounds := by
  unfold Obligations.ScaleRounds
  intro c b
  refine ⟨toNat_scale c b, ?_, scale_full c, scale_dark c, scale_zero b, scale_le c b,
    fun _ h => scale_mono h (BitVec.le_refl b), fun _ h => scale_mono (BitVec.le_refl c) h⟩
  rw [toNat_scale, ← Nat.cast_mul]
  omega

/-! ## The wire group -/

section
variable (b0 b1 b2 b3 : Byte)

@[simp] theorem byte_zero_wordOfBytes : (wordOfBytes b0 b1 b2 b3).byte 0 = b0 :=
  congrArg Shifts.s2 (layoutShifts_layoutOfShifts ⟨b2, b1, b0, b3⟩)

@[simp] theorem byte_one_wordOfBytes : (wordOfBytes b0 b1 b2 b3).byte 1 = b1 :=
  congrArg Shifts.s1 (layoutShifts_layoutOfShifts ⟨b2, b1, b0, b3⟩)

@[simp] theorem byte_two_wordOfBytes : (wordOfBytes b0 b1 b2 b3).byte 2 = b2 :=
  congrArg Shifts.s0 (layoutShifts_layoutOfShifts ⟨b2, b1, b0, b3⟩)

@[simp] theorem byte_three_wordOfBytes : (wordOfBytes b0 b1 b2 b3).byte 3 = b3 :=
  congrArg Shifts.s3 (layoutShifts_layoutOfShifts ⟨b2, b1, b0, b3⟩)

end

theorem pixelByte_eq (p : Word) (shift : Byte) : pixelByte p shift = (p >>> shift.toNat).setWidth 8 := by
  apply BitVec.eq_of_getLsbD_eq
  intro i hi
  simp [pixelByte]

/-- A group's bytes, lowest first, are the corrected bytes from the last slot to slot 0 (R215). -/
theorem wireGroup_eq (sn : Snap) (gamma : Memory) (p : Word) :
    let out (shift : Byte) : Byte := correct gamma sn.brightness (pixelByte p shift)
    let s := layoutShifts sn.layout
    wireGroup sn gamma p =
      if sn.white then wordOfBytes (out s.s3) (out s.s2) (out s.s1) (out s.s0)
      else wordOfBytes (out s.s2) (out s.s1) (out s.s0) 0#8 := rfl

/-- Every byte of a group is a corrected byte (R214, R215). -/
theorem wireGroup_byte (sn : Snap) (gamma : Memory) (p : Word) {k : Nat} (hk : k < sn.bpp / 8) :
    ∃ c, (wireGroup sn gamma p).byte k = correct gamma sn.brightness c := by
  rw [wireGroup_eq]
  unfold Snap.bpp at hk
  split at hk
  case isTrue white =>
    rw [if_pos white]
    interval_cases k
    exacts [⟨_, byte_zero_wordOfBytes ..⟩, ⟨_, byte_one_wordOfBytes ..⟩, ⟨_, byte_two_wordOfBytes ..⟩,
      ⟨_, byte_three_wordOfBytes ..⟩]
  case isFalse noWhite =>
    rw [if_neg noWhite]
    interval_cases k
    exacts [⟨_, byte_zero_wordOfBytes ..⟩, ⟨_, byte_one_wordOfBytes ..⟩, ⟨_, byte_two_wordOfBytes ..⟩]

/-- Without white, byte 3 is no part of the group. -/
theorem wireGroup_byte_three {sn : Snap} (noWhite : sn.white = false) (gamma : Memory) (p : Word) :
    (wireGroup sn gamma p).byte 3 = 0#8 := by
  rw [wireGroup_eq, noWhite]
  exact byte_three_wordOfBytes ..

/-- Settles O43: a byte of a group is an entry, at the identity the scaled byte, and at brightness 0 entry 0. -/
theorem encoderProperties : Obligations.EncoderProperties := by
  unfold Obligations.EncoderProperties
  intro sn gamma p g slot l
  have entry (k : Nat) (hk : k < sn.bpp / 8) : ∃ c, g.byte k = gamma.entry (scale c sn.brightness) :=
    wireGroup_byte sn gamma p hk
  refine ⟨fun k hk => ?_, fun top htop k hk => ?_, fun hb hid => ?_, fun hb k hk => ?_, fun hw => ⟨?_, ?_⟩,
    fun hw => ?_⟩
  · obtain ⟨c, h⟩ := entry k hk
    exact ⟨_, h⟩
  · obtain ⟨c, h⟩ := entry k hk
    exact h ▸ htop _
  · show wireGroup sn gamma p = _
    simp only [wireGroup, correct, hb, scale_full, hid, pixelByte_eq]
    rfl
  · obtain ⟨c, h⟩ := entry k hk
    rw [h, hb, scale_dark]
  · exact wireGroup_byte_three hw gamma p
  · rw [words_eq, hw]
    simp only [Bool.false_eq_true, if_false]
    omega
  · rw [words_eq, hw]
    simp only [if_true]
    omega

end Sys2Proof.Machine
end

section
/-! The generated gamma tables: the rounded real power, its properties, and the integer search that computes it (R231 to
R233). -/

namespace Sys2Proof.Machine

/-- The integer test says that `m` is at most the rounded real power (R231): it compares both sides of
`2m − 1 ≤ 510 · (i/255)^(p/q)` after raising them to the power `q`. -/
theorem gammaReaches_iff {p q m : Nat} (i : Nat) (hq : q ≠ 0) (hm : 1 ≤ m) :
    gammaReaches p q i m = true ↔ m ≤ ⌊255 * ((i : ℝ) / 255) ^ ((p : ℝ) / q) + 1 / 2⌋₊ := by
  have base : 0 ≤ (i : ℝ) / 255 := by positivity
  have power : (((i : ℝ) / 255) ^ ((p : ℝ) / q)) ^ q = (i : ℝ) ^ p / 255 ^ p := by
    rw [← Real.rpow_mul_natCast base, div_mul_cancel₀ _ (Nat.cast_ne_zero.mpr hq), Real.rpow_natCast, div_pow]
  have nonneg : 0 ≤ ((i : ℝ) / 255) ^ ((p : ℝ) / q) := Real.rpow_nonneg base _
  generalize ((i : ℝ) / 255) ^ ((p : ℝ) / q) = r at power nonneg
  have odd : ((2 * m - 1 : Nat) : ℝ) = 2 * m - 1 := by push_cast [show 1 ≤ 2 * m by omega]; rfl
  calc gammaReaches p q i m = true
    _ ↔ (((2 * m - 1 : Nat) : ℝ)) ^ q * 255 ^ p ≤ (i : ℝ) ^ p * 510 ^ q := by
      rw [gammaReaches, decide_eq_true_iff]
      exact_mod_cast Iff.rfl
    _ ↔ ((2 * m - 1 : Nat) : ℝ) ^ q ≤ (510 * r) ^ q := by
      rw [mul_pow, power, mul_div_assoc', le_div_iff₀ (by positivity), mul_comm (510 ^ q : ℝ)]
    _ ↔ ((2 * m - 1 : Nat) : ℝ) ≤ 510 * r := pow_le_pow_iff_left₀ (Nat.cast_nonneg _) (by positivity) hq
    _ ↔ (m : ℝ) ≤ 255 * r + 1 / 2 := by
      rw [odd]
      constructor <;> intro h <;> linarith
    _ ↔ m ≤ ⌊255 * r + 1 / 2⌋₊ := (Nat.le_floor_iff (by positivity)).symm

/-- The bits of an `n`-bit number, the highest first. -/
def highBitsFirst : Nat → List Nat
  | 0 => []
  | n + 1 => 2 ^ n :: highBitsFirst n

/-- Where exactly the numbers up to `top` are reached, the search finds `top` by its bits. -/
theorem gammaSearch_eq {p q i top : Nat} (h : ∀ m, 1 ≤ m → (gammaReaches p q i m = true ↔ m ≤ top)) (n : Nat) :
    ∀ acc, acc ≤ top → top < acc + 2 ^ n → gammaSearch p q i (highBitsFirst n) acc = top := by
  induction n with
  | zero =>
    intro acc lo hi
    simp only [highBitsFirst, gammaSearch]
    omega
  | succ n ih =>
    intro acc lo hi
    rw [highBitsFirst, gammaSearch]
    rw [pow_succ] at hi
    have reach := h (acc + 2 ^ n) (Nat.le_add_left_of_le Nat.one_le_two_pow)
    split
    · exact ih _ (reach.mp ‹_›) (by omega)
    · exact ih _ lo (Nat.lt_of_not_le fun k => ‹¬ _› (reach.mpr k))

/-- `255 · (i/255)^(f/65536)`, in real arithmetic (R231). -/
noncomputable def gammaPower (f i : Nat) : ℝ := 255 * ((i : ℝ) / 255) ^ ((f : ℝ) / 65536)

/-- The power rounded, halves up (R231). -/
noncomputable def gammaRounded (f i : Nat) : Nat := ⌊gammaPower f i + 1 / 2⌋₊

section
variable {f i j : Nat}

theorem gammaPower_mono (f : Nat) (h : i ≤ j) : gammaPower f i ≤ gammaPower f j :=
  mul_le_mul_of_nonneg_left
    (Real.rpow_le_rpow (by positivity) (div_le_div_of_nonneg_right (Nat.cast_le.mpr h) (by norm_num)) (by positivity))
    (by norm_num)

theorem gammaPower_zero (hf : f ≠ 0) : gammaPower f 0 = 0 := by
  have : (f : ℝ) / 65536 ≠ 0 := by positivity
  simp [gammaPower, Real.zero_rpow this]

theorem gammaPower_top (f : Nat) : gammaPower f 255 = 255 := by simp [gammaPower]

/-- A factor above 1.0 darkens. -/
theorem gammaPower_le (hi : i ≤ 255) (hf : 65536 ≤ f) : gammaPower f i ≤ i := by
  have base : (i : ℝ) / 255 ≤ 1 := (div_le_one (by norm_num)).mpr (by exact_mod_cast hi)
  have power := Real.rpow_le_self_of_le_one (x := (i : ℝ) / 255) (y := f / 65536) (by positivity) base
    ((one_le_div (by norm_num)).mpr (by exact_mod_cast hf))
  unfold gammaPower
  linarith

/-- A factor below 1.0 brightens. -/
theorem le_gammaPower (hi : i ≤ 255) (hf : f ≤ 65536) : i ≤ gammaPower f i := by
  have base : (i : ℝ) / 255 ≤ 1 := (div_le_one (by norm_num)).mpr (by exact_mod_cast hi)
  have power := Real.self_le_rpow_of_le_one (x := (i : ℝ) / 255) (y := f / 65536) (by positivity) base
    ((div_le_one (by norm_num)).mpr (by exact_mod_cast hf))
  unfold gammaPower
  linarith

/-- For a whole exponent, the power over the denominator `255^(k−1)` (R232). -/
theorem gammaPower_whole {k : Nat} (hk : 1 ≤ k) (i : Nat) :
    gammaPower (65536 * k) i = (i : ℝ) ^ k / 255 ^ (k - 1) := by
  obtain ⟨k, rfl⟩ := Nat.exists_eq_add_of_le' hk
  have exponent : ((65536 * (k + 1) : Nat) : ℝ) / 65536 = (k + 1 : Nat) := by
    rw [Nat.cast_mul, Nat.cast_ofNat, mul_div_cancel_left₀ _ (by norm_num)]
  rw [gammaPower, exponent, Real.rpow_natCast, div_pow, Nat.add_sub_cancel, pow_succ (255 : ℝ)]
  field_simp

theorem floor_natCast_add_half (n : Nat) : ⌊(n : ℝ) + 1 / 2⌋₊ = n := by
  rw [Nat.floor_eq_iff (by positivity)]
  constructor <;> linarith

theorem gammaRounded_mono (f : Nat) (h : i ≤ j) : gammaRounded f i ≤ gammaRounded f j :=
  Nat.floor_le_floor (add_le_add_left (gammaPower_mono f h) _)

theorem gammaRounded_zero (hf : f ≠ 0) : gammaRounded f 0 = 0 := by
  rw [gammaRounded, gammaPower_zero hf]
  exact_mod_cast floor_natCast_add_half 0

theorem gammaRounded_top (f : Nat) : gammaRounded f 255 = 255 := by
  rw [gammaRounded, gammaPower_top]
  exact_mod_cast floor_natCast_add_half 255

theorem gammaRounded_le (hi : i ≤ 255) (hf : 65536 ≤ f) : gammaRounded f i ≤ i :=
  (Nat.floor_le_floor (add_le_add_left (gammaPower_le hi hf) _)).trans_eq (floor_natCast_add_half i)

theorem le_gammaRounded (hi : i ≤ 255) (hf : f ≤ 65536) : i ≤ gammaRounded f i :=
  (floor_natCast_add_half i).symm.trans_le (Nat.floor_le_floor (add_le_add_left (le_gammaPower hi hf) _))

/-- R232's integer form. -/
theorem gammaRounded_whole {k : Nat} (hk : 1 ≤ k) (i : Nat) :
    gammaRounded (65536 * k) i = (2 * i ^ k + 255 ^ (k - 1)) / (2 * 255 ^ (k - 1)) := by
  rw [gammaRounded, gammaPower_whole hk, ← Nat.floor_div_eq_div (K := ℝ)]
  congr 1
  push_cast
  field_simp

/-- The generated entry is the rounded power (R231). -/
theorem gammaOut_eq (hf : f ≠ 0) (hi : i ≤ 255) : gammaOut f i = gammaRounded f i := by
  have hg : 0 < Nat.gcd f 65536 := Nat.gcd_pos_of_pos_right f (by norm_num)
  have hq : 65536 / Nat.gcd f 65536 ≠ 0 := (Nat.div_pos (Nat.gcd_le_right f (by norm_num)) hg).ne'
  have exponent : ((f / Nat.gcd f 65536 : Nat) : ℝ) / (65536 / Nat.gcd f 65536 : Nat) = f / 65536 := by
    rw [Nat.cast_div (Nat.gcd_dvd_left f 65536) (by positivity),
      Nat.cast_div (Nat.gcd_dvd_right f 65536) (by positivity), div_div_div_cancel_right₀ (by positivity)]
    norm_num
  have top : gammaRounded f i < 0 + 2 ^ 8 :=
    Nat.lt_succ_of_le ((gammaRounded_mono f hi).trans_eq (gammaRounded_top f))
  refine gammaSearch_eq (fun m hm => ?_) 8 0 (Nat.zero_le _) top
  rw [gammaReaches_iff i hq hm, exponent, gammaRounded, gammaPower]

end

/-- An entry of a generated table is the rounded power (R231). -/
theorem gammaGen_getElem? {f : Word} (hf : f ≠ 0#32) {i : Nat} (hi : i < 256) :
    ∃ v : Byte, (gammaGen f)[i]? = some v ∧ v.toNat = gammaRounded f.toNat i := by
  have pos : f.toNat ≠ 0 := fun k => hf (BitVec.eq_of_toNat_eq k)
  have small : gammaRounded f.toNat i < 2 ^ 8 :=
    Nat.lt_succ_of_le ((gammaRounded_mono _ (Nat.le_of_lt_succ hi)).trans_eq (gammaRounded_top _))
  refine ⟨BitVec.ofNat 8 (gammaOut f.toNat i), ?_, ?_⟩
  · simp [gammaGen, hi]
  · rw [gammaOut_eq pos (Nat.le_of_lt_succ hi), BitVec.toNat_ofNat, Nat.mod_eq_of_lt small]

/-- Settles O50: the search by bits finds the rounded power. -/
theorem gammaGenRoundsThePower : Obligations.GammaGenRoundsThePower := by
  unfold Obligations.GammaGenRoundsThePower
  exact fun f hf => ⟨by simp [gammaGen], fun i hi => gammaGen_getElem? hf hi⟩

/-- Settles O51: each property is one of the rounded real power. -/
theorem gammaGenProperties : Obligations.GammaGenProperties := by
  unfold Obligations.GammaGenProperties
  intro entry
  have entry_eq {f : Word} {i : Nat} (hf : f ≠ 0#32) (hi : i < 256) : entry f i = gammaRounded f.toNat i := by
    obtain ⟨v, hv, hr⟩ := gammaGen_getElem? hf hi
    rw [← hr]
    simp [entry, hv]
  have whole (k i : Nat) (hk : 1 ≤ k) (hk' : k < 65536) (hi : i < 256) :
      entry (BitVec.ofNat 32 (65536 * k)) i = (2 * i ^ k + 255 ^ (k - 1)) / (2 * 255 ^ (k - 1)) := by
    have toNat : (BitVec.ofNat 32 (65536 * k)).toNat = 65536 * k := Nat.mod_eq_of_lt (by omega)
    rw [entry_eq (fun h => ?_) hi, toNat, gammaRounded_whole hk]
    have := toNat.symm.trans (congrArg BitVec.toNat h)
    simp only [BitVec.toNat_ofNat] at this
    omega
  refine ⟨whole, fun i hi => ?_, fun f hf => ⟨?_, ?_, fun i j hij hj => ?_, fun i hi h => ?_, fun i hi h => ?_⟩⟩
  · rw [whole 1 i (le_refl 1) (by norm_num) hi, pow_one]
    omega
  · rw [entry_eq hf (by norm_num), gammaRounded_zero fun k => hf (BitVec.eq_of_toNat_eq k)]
  · rw [entry_eq hf (by norm_num), gammaRounded_top]
  · rw [entry_eq hf (hij.trans_lt hj), entry_eq hf hj]
    exact gammaRounded_mono _ hij
  · rw [entry_eq hf hi]
    exact gammaRounded_le (Nat.le_of_lt_succ hi) h.le
  · rw [entry_eq hf hi]
    exact le_gammaRounded (Nat.le_of_lt_succ hi) h.le

end Sys2Proof.Machine
end

section
/-! The frame: the bits of a lane's stream, and its words' places in symbol RAM (R216 to R221). -/

namespace Sys2Proof.Machine

section
variable {sn : Snap} {groups : List Word} {j : Nat}

/-- A data bit's first sub-bit is 1 (R217). -/
theorem laneSubBit_first (hj : j < sn.subbits) (h : j % 3 = 0) : laneSubBit sn groups j = !sn.invert := by
  simp [laneSubBit, dataSubBit, spb, hj, h]

/-- Its second is the bit (R216, R217). -/
theorem laneSubBit_second (hj : j < sn.subbits) (h : j % 3 = 1) {x : Word} (hx : groups[j / 3 / sn.bpp]? = some x) :
    laneSubBit sn groups j = (x.getLsbD (sn.bpp - 1 - j / 3 % sn.bpp) != sn.invert) := by
  simp [laneSubBit, dataSubBit, dataBit, spb, hj, h, hx]

/-- Its third is 0 (R217). -/
theorem laneSubBit_third (hj : j < sn.subbits) (h : j % 3 = 2) : laneSubBit sn groups j = sn.invert := by
  simp [laneSubBit, dataSubBit, spb, hj, h]

/-- Padding and tail are 0 (R220). -/
theorem laneSubBit_idle (hj : sn.subbits ≤ j) : laneSubBit sn groups j = sn.invert := by
  simp [laneSubBit, Nat.not_lt.mpr hj]

end

/-- The words of a lane stand one frame step apart (R221). -/
theorem symbolWord_lane (sn : Pair Snap) (groups : Pair (List Word)) {m : Mode} {n : Chan} (hn : n.toNat < m.lanes)
    (k : Nat) : symbolWord m.lanes sn groups (k * m.lanes + n.toNat) = laneWord (sn.get n) (groups.get n) k := by
  cases n
  · simp [symbolWord, Chan.toNat, Pair.get, Nat.mul_div_cancel _ m.lanes_pos]
  · have two : m.lanes = 2 := by cases m <;> simp_all [Chan.toNat, Mode.lanes]
    have odd : (k * 2 + 1) / 2 = k := by omega
    simp [symbolWord, two, Chan.toNat, Pair.get, odd]

theorem encodeFrame_getElem? (m : Mode) (freq : Word) (sn : Pair Snap) (groups : Pair (List Word)) {n : Chan} {k : Nat}
    (hn : n.toNat < m.lanes) (hk : k < (geometry m freq sn).d + (geometry m freq sn).t) :
    (encodeFrame (geometry m freq sn) sn groups)[k * m.lanes + n.toNat]? =
      some (laneWord (sn.get n) (groups.get n) k) := by
  have place : k * m.lanes + n.toNat < (geometry m freq sn).n :=
    calc k * m.lanes + n.toNat
      _ < (k + 1) * m.lanes := by rw [Nat.succ_mul]; exact Nat.add_lt_add_left hn _
      _ ≤ (geometry m freq sn).n := Nat.mul_le_mul_right _ hk
  rw [encodeFrame, List.getElem?_map, List.getElem?_range place]
  exact congrArg some (symbolWord_lane sn groups hn k)

/-- Settles O42: a symbol word's bits are sub-bits of its lane's stream. -/
theorem frameEncoding : Obligations.FrameEncoding := by
  unfold Obligations.FrameEncoding
  intro mode freq sn groups words d t l
  have shape : geometry mode freq sn = { d := d, t := t, l := l } := by
    rw [geometry_eq, tailWords_eq]
    rfl
  have lanes : l = mode.lanes := by cases mode <;> rfl
  refine ⟨shape, by rw [encodeFrame, List.length_map, List.length_range, shape]; rfl, fun n k m hn hk hm => ?_⟩
  intro s bpp j b
  have bit : (laneWord s (groups.get n) k).getLsbD (31 - m) = laneSubBit s (groups.get n) j :=
    wordOfSubBits_getLsbD (fun m => laneSubBit s (groups.get n) (32 * k + m)) m hm
  refine ⟨_, lanes ▸ encodeFrame_getElem? mode freq sn groups (lanes ▸ hn) (by rw [shape]; exact hk), ?_⟩
  rw [bit]
  exact ⟨fun hj => ⟨laneSubBit_first hj, fun h x hx => laneSubBit_second hj h hx, laneSubBit_third hj⟩, laneSubBit_idle⟩

end Sys2Proof.Machine
end

section
/-! RENDER's steps from its clear step to the writing of the frame (R211, R225, R320, R321). -/

namespace Sys2Proof.Machine

open State

variable {s : State}

/-! ## The clear step -/

theorem Chan.exists_iff {P : Chan → Prop} : (∃ n, P n) ↔ P .ch0 ∨ P .ch1 :=
  ⟨fun ⟨n, h⟩ => by cases n; exacts [.inl h, .inr h], fun h => h.elim (⟨_, ·⟩) (⟨_, ·⟩)⟩

/-- The checks of the snapshot, the first failing one wins (R320 step 6). -/
theorem renderCheck_cases (s : State) :
    let bad : Prop := ∃ n, 0 < (s.snap.get n).count.toNat ∧ layoutSupported (s.snap.get n).layout = false
    let large : Prop := ∃ n, s.cfg.maxLeds < (s.snap.get n).count.toNat
    let long : Prop := s.cfg.symWords < (geometry s.lat.mode s.lat.freqL s.snap).n
    (bad ∧ s.renderCheck = some .genericFailure) ∨
    (¬ bad ∧ large ∧ s.renderCheck = some .outOfMemory) ∨
    (¬ bad ∧ ¬ large ∧ long ∧ s.renderCheck = some .dma) ∨
    (¬ bad ∧ ¬ large ∧ ¬ long ∧ s.renderCheck = none) := by
  intro bad large long
  simp only [bad, large, Chan.exists_iff]
  generalize check : s.renderCheck = code
  unfold renderCheck at check
  dsimp only at check
  split at check
  case isTrue isBad => exact .inl ⟨by simpa using isBad, check.symm⟩
  case isFalse good =>
    refine .inr ?_
    split at check
    case isTrue isLarge => exact .inl ⟨by simpa using good, isLarge, check.symm⟩
    case isFalse small =>
      refine .inr ?_
      split at check
      case isTrue isLong => exact .inl ⟨by simpa using good, small, isLong, check.symm⟩
      case isFalse short => exact .inr ⟨by simpa using good, small, short, check.symm⟩

theorem execRender_renderLatch_fails (hp : s.seq.phase = .renderLatch) (hl : s.latchOver = true) {code : RetCode}
    (hc : s.renderClear.renderCheck = some code) : execRender s = .next (s.renderClear.complete code) := by
  simp [execRender, hp, hl, hc]

theorem execRender_renderLatch_passes (hp : s.seq.phase = .renderLatch) (hl : s.latchOver = true)
    (hc : s.renderClear.renderCheck = none) : execRender s = .next (s.renderClear.goto .renderEnter .none) := by
  simp [execRender, hp, hl, hc]

/-- Settles O39: the snapshot is `snapsOf`, and each outcome of its checks is a completion or the next phase. -/
theorem renderClearsAndSnapshots : Obligations.RenderClearsAndSnapshots := by
  unfold Obligations.RenderClearsAndSnapshots
  intro s hp hl reg white sn words d t l clear fails bad large long
  have snap_get (n : Chan) : s.renderClear.snap.get n = sn n := by
    have snap_eq : s.renderClear.snap.get n = snapOf (reg n) (s.lat.active.get n) := by cases n <;> rfl
    rw [snap_eq]
    dsimp only [sn]
    cases s.lat.active.get n <;> rfl
  have snap_eq : s.renderClear.snap = { ch0 := sn .ch0, ch1 := sn .ch1 } := by
    rw [← snap_get, ← snap_get]
    rfl
  have frame : (geometry s.lat.mode s.lat.freqL s.renderClear.snap).n = (d + t) * l := by
    rw [snap_eq, geometry_eq, tailWords_eq]
    rfl
  have cleared (q : Seq) :
      ({ s.renderClear with seq := { q with state := .idle, xferErr := false, hold := .none } } : State) = clear q :=
    congrArg (fun x => ({ s.renderClear with
      seq := { q with state := .idle, xferErr := false, hold := .none }, snap := x } : State)) snap_eq
  have latch : s.latchOver = true := decide_eq_true hl
  have failed {c : RetCode} (k : s.renderClear.renderCheck = some c) : fails c :=
    (execRender_renderLatch_fails hp latch k).trans
      (congrArg _ (cleared { s.seq with result := c, cmdBusy := false, phase := .start }))
  have checks := renderCheck_cases s.renderClear
  simp only [snap_get, renderClear_cfg, renderClear_lat, frame] at checks
  rcases checks with ⟨isBad, k⟩ | ⟨good, isLarge, k⟩ | ⟨good, small, isLong, k⟩ | ⟨good, small, short, k⟩
  · exact ⟨fun _ => failed k, absurd isBad, absurd isBad, absurd isBad⟩
  · exact ⟨fun h => absurd h good, fun _ _ => failed k, fun _ => absurd isLarge, fun _ => absurd isLarge⟩
  · exact ⟨fun h => absurd h good, fun _ h => absurd h small, fun _ _ _ => failed k, fun _ _ => absurd isLong⟩
  · exact ⟨fun h => absurd h good, fun _ h => absurd h small, fun _ _ h => absurd h short, fun _ _ _ =>
      (execRender_renderLatch_passes hp latch k).trans (congrArg _ (cleared { s.seq with phase := .renderEnter }))⟩

/-! ## The encoder's steps -/

theorem execRender_renderEnter (hp : s.seq.phase = .renderEnter) : execRender s =
    .next (({ s with seq := { s.seq with state := .encoding } } : State).goto (.renderEncode [] []) .work) := by
  simp only [execRender, hp]

theorem execRender_renderEncode {g0 g1 : List Word} (hp : s.seq.phase = .renderEncode g0 g1) :
    execRender s = .next (s.encodeStep g0 g1) := by
  simp only [execRender, hp]

/-- Settles O40: each step appends the group it reads, of the word in pixel RAM where that has a value. -/
theorem encoderReadsPixels : Obligations.EncoderReadsPixels := by
  unfold Obligations.EncoderReadsPixels
  intro s out group
  have group_eq (n : Chan) (p : Word) : wireGroup (s.snap.get n) (s.ram.gamma.get n) p = group n p := by
    simp only [wireGroup, pixelByte_eq]
    rfl
  refine ⟨fun hp => execRender_renderEnter hp, fun g0 g1 hp h0 => ?_, fun g0 g1 hp h0 h1 => ?_⟩
  · refine ⟨_, ?_, fun w hw => wordOr_of_some s 0 w hw⟩
    rw [← group_eq]
    exact (execRender_renderEncode hp).trans (congrArg _ (if_pos h0))
  · refine ⟨_, ?_, fun w hw => wordOr_of_some s 0 w hw⟩
    rw [← group_eq]
    exact (execRender_renderEncode hp).trans (congrArg _ ((if_neg (Nat.not_lt.mpr h0)).trans (if_pos h1)))

theorem length_encodeFrame (g : Geometry) (sn : Pair Snap) (groups : Pair (List Word)) :
    (encodeFrame g sn groups).length = g.n := by simp [encodeFrame]

/-- The frame's words are in symbol RAM after it is written (R222). -/
theorem writeFrame_word {groups : Pair (List Word)} {q : Nat} {w : Word}
    (h : (encodeFrame (geometry s.lat.mode s.lat.freqL s.snap) s.snap groups)[q]? = some w) :
    (s.writeFrame groups).ram.sym.word? q = some w :=
  Memory.word?_setWords_in _ (Nat.zero_le q) h

/-- No other byte of any RAM is changed (R222). -/
theorem writeFrame_sameBytesBut (s : State) (groups : Pair (List Word)) :
    SameBytesBut s (s.writeFrame groups)
      (fun r a => r = .sym ∧ a < 4 * (geometry s.lat.mode s.lat.freqL s.snap).n) := by
  intro r a h
  cases r with
  | sym =>
    refine Memory.read_setWords_out _ (.inr ?_)
    rw [length_encodeFrame, Nat.zero_add]
    exact Nat.le_of_not_lt fun k => h ⟨rfl, k⟩
  | _ => rfl

/-- Settles O41: the last step writes the frame and goes on. -/
theorem encoderWritesFrame : Obligations.EncoderWritesFrame := by
  unfold Obligations.EncoderWritesFrame
  intro s g0 g1 hp h0 h1 g
  refine ⟨(s.writeFrame { ch0 := g0, ch1 := g1 }).goto .renderBuild .work, ?_, rfl, fun q hq => ?_,
    writeFrame_sameBytesBut s _⟩
  · exact (execRender_renderEncode hp).trans
      (congrArg _ ((if_neg (Nat.not_lt.mpr h0)).trans (if_neg (Nat.not_lt.mpr h1))))
  · obtain ⟨w, hw⟩ : ∃ w, (encodeFrame g s.snap { ch0 := g0, ch1 := g1 })[q]? = some w :=
      ⟨_, List.getElem?_eq_getElem (hq.trans_eq (length_encodeFrame g _ _).symm)⟩
    exact ⟨w, hw, writeFrame_word hw⟩

end Sys2Proof.Machine
end

section
/-! The scheduler inside the builder's chain: no check of a fetch or of a move fails (R275), and each of its steps
moves the frame along without losing a word of it (R252, R264 to R273). -/

namespace Sys2Proof.Machine

open State

variable {s t : State} {d : Dma} {m : Mode} {g : Geometry}

/-! ## The blocks of a chain pass the fetch's checks -/

/-- The loaded-block registers take a block (R264). -/
def Dma.load (d : Dma) (b : CtrlBlock) : Dma :=
  { d with
    ti := tiWord b.ti, sourceAd := b.sourceAd, destAd := b.destAd, txfrLen := b.txfrLen,
    nextConbk := b.nextConbk, loaded := true }

theorem loadBlock_legal {b : CtrlBlock} (wf : b.wellFormed = true) (len : b.txfrLen.toNat % 4 = 0) :
    s.loadBlock b = { s with dma := s.dma.load b } := by
  have aligned : b.txfrLen.field 0 2 = 0#2 :=
    BitVec.eq_of_toNat_eq (by simpa [Word.field, BitVec.extractLsb'_toNat] using len)
  simp [State.loadBlock, wf, aligned, Dma.load]

theorem toNat_byteCount {k : Nat} (hk : k ≤ 65536) : (BitVec.ofNat 32 (4 * k)).toNat = 4 * k := by
  rw [BitVec.toNat_ofNat]
  exact Nat.mod_eq_of_lt (by omega)

/-- A block of a chain, `k` words long (R252). -/
theorem chainBlock_legal (m : Mode) {b : CtrlBlock} {k : Nat} (hk : k ≤ 65536) (hp : b.ti.permap = m.permap)
    (hs : b.stride = 0#32) (hl : b.txfrLen = BitVec.ofNat 32 (4 * k)) :
    b.wellFormed = true ∧ b.txfrLen.toNat % 4 = 0 := by
  have size : b.txfrLen.toNat = 4 * k := hl ▸ toNat_byteCount hk
  refine ⟨CtrlBlock.wellFormed_iff.mpr ⟨?_, BitVec.eq_of_toNat_eq ?_, hs⟩, by omega⟩
  · rw [hp]
    cases m <;> decide
  · rw [Word.field, BitVec.extractLsb'_toNat, size, Nat.shiftRight_eq_div_pow, Nat.div_eq_of_lt (by omega)]
    rfl

/-- The words of the two blocks together (R252). -/
theorem Geometry.n_eq (g : Geometry) : g.n = g.l * g.d + g.l * g.t := by
  unfold Geometry.n
  ring

theorem dataBlock_legal (m : Mode) (fits : g.n ≤ 65536) :
    (dataBlock m g).wellFormed = true ∧ (dataBlock m g).txfrLen.toNat % 4 = 0 :=
  chainBlock_legal (k := g.l * g.d) m (by have := g.n_eq; omega) rfl rfl (by rw [← Nat.mul_assoc]; rfl)

theorem tailBlock_legal (m : Mode) (fits : g.n ≤ 65536) :
    (tailBlock m g).wellFormed = true ∧ (tailBlock m g).txfrLen.toNat % 4 = 0 :=
  chainBlock_legal (k := g.l * g.t) m (by have := g.n_eq; omega) rfl rfl (by rw [← Nat.mul_assoc]; rfl)

/-- The block of a chain that `DMA_CONBLK_AD` names (R252). -/
def Dma.block (d : Dma) (m : Mode) (g : Geometry) : CtrlBlock :=
  if d.conblkAd = cbBase then dataBlock m g else tailBlock m g

/-- A fetch inside a chain passes its address check and reads the chain's block (R264, R275). -/
theorem Dma.InChain.fetch (place : s.dma.InChain m g) (stored : ChainIn s.ram.cb m g) :
    s.fetch = .ok (.cb (s.dma.block m g)) := by
  unfold State.fetch Dma.block
  rcases place with ⟨hc, -⟩ | ⟨hc, -⟩
  · rw [fetchBlock_data stored hc, hc]
    rfl
  · rw [fetchBlock_tail stored hc, hc]
    rfl

/-- A fetch inside a chain loads the chain's block (R264, R275). -/
theorem Dma.InChain.fetchTurn (place : s.dma.InChain m g) (stored : ChainIn s.ram.cb m g) (fits : g.n ≤ 65536)
    (idle : s.dma.loaded = false) :
    fetchTurn s = .next { s.drew 8 with dma := s.dma.load (s.dma.block m g) } := by
  have legal : (s.dma.block m g).wellFormed = true ∧ (s.dma.block m g).txfrLen.toNat % 4 = 0 := by
    unfold Dma.block
    split
    · exact dataBlock_legal m fits
    · exact tailBlock_legal m fits
  unfold Machine.fetchTurn
  rw [place.fetch stored]
  show execCb _ s.fetched = _
  rw [execCb, if_neg (by simp [State.fetched, idle]), loadBlock_legal legal.1 legal.2]
  rfl

/-! ## The move's checks -/

/-- A loaded block of a chain: paced by the mode's DREQ, source and length aligned, the source moving up and the words
still to move inside the frame (R252, R271). -/
structure Dma.AtWork (d : Dma) (m : Mode) (g : Geometry) : Prop where
  paced  : (tiFields d.ti).destDreq = true
  permap : (tiFields d.ti).permap = m.permap
  dest   : d.destAd = fifoData
  source : d.sourceAd.toNat % 4 = 0
  length : d.txfrLen.toNat % 4 = 0
  within : d.sourceAd.toNat + d.txfrLen.toNat ≤ 4 * g.n

theorem Dma.InChain.atWork (place : d.InChain m g) (hl : d.loaded = true) : d.AtWork m g := by
  rcases place with ⟨-, k⟩ | ⟨-, k⟩ <;> obtain ⟨ti, dest, -, ends, source, length⟩ := k hl
  · exact ⟨by rw [ti, tiFields_tiWord]; rfl, by rw [ti, tiFields_tiWord]; rfl, dest, source, length,
      by have := g.n_eq; omega⟩
  · exact ⟨by rw [ti, tiFields_tiWord]; rfl, by rw [ti, tiFields_tiWord]; rfl, dest, source, length, ends.le⟩

/-- Inside a chain a block may move a word exactly when the FIFO has room (R269, R270). -/
theorem Dma.AtWork.moveReady_iff (w : s.dma.AtWork s.lat.mode g) (hl : s.dma.loaded = true) :
    s.moveReady = true ↔ s.ser.fifo.length < s.cfg.fifoDepth := by
  have used : s.lat.mode.permap ≠ 0#5 := by cases s.lat.mode <;> decide
  simp [State.moveReady, State.dreq, w.paced, w.permap, hl, used]

/-- A move inside a chain passes its checks and pushes the next word of the frame (R271, R275). -/
theorem Dma.AtWork.moveWord (w : s.dma.AtWork s.lat.mode g) (fits : g.n ≤ s.cfg.symWords)
    (hl : s.dma.loaded = true) (hlen : s.dma.txfrLen ≠ 0#32) (ready : s.moveReady = true) :
    s.moveWord = { (s.push (s.sourceWord s.dma.sourceAd)).drew 1 with dma := s.dma.advance } := by
  have room := (w.moveReady_iff hl).mp ready
  have pos : s.dma.txfrLen.toNat ≠ 0 := fun k => hlen (BitVec.eq_of_toNat_eq k)
  have within := w.within
  have src : srcOk s.cfg s.dma.sourceAd = true := decide_eq_true ⟨w.source, by omega⟩
  have dest : destOk s.cfg s.dma.destAd = true := by rw [w.dest]; exact decide_eq_true ⟨by decide, .inr rfl⟩
  rcases moveWord_cases (s := s) with ⟨no, -⟩ | ⟨-, no, -⟩ | ⟨-, -, -, no, -⟩ | ⟨-, -, -, -, k⟩ | ⟨-, -, no, -⟩
  · exact absurd (src.symm.trans no) nofun
  · exact absurd (dest.symm.trans no) nofun
  · omega
  · exact k
  · exact absurd w.dest no

end Sys2Proof.Machine
end

section
/-! What the steps of a running scheduler leave of a chain: how many words and steps are still to come. -/

namespace Sys2Proof.Machine

open State

variable {s t : State} {d : Dma} {m : Mode} {g : Geometry}

/-! ## The steps of a running scheduler -/

/-- The scheduler's registers after a block's last word (R272, R273). -/
def Dma.finish (d : Dma) : Dma :=
  if d.nextConbk = 0#32 then
    { d with int := d.int || (tiFields d.ti).inten, loaded := false, ended := true, active := false }
  else { d with int := d.int || (tiFields d.ti).inten, loaded := false, conblkAd := d.nextConbk }

theorem finishBlock_eq (s : State) : s.finishBlock = { s with dma := s.dma.finish } := by
  unfold Dma.finish
  rcases finishBlock_cases (s := s) with ⟨hn, k⟩ | ⟨hn, k⟩ <;> rw [k]
  · rw [if_pos hn]
  · rw [if_neg hn]

/-- The turn of a scheduler that runs a chain: the fetch of the chain's block, the finish, a move that passes its
checks, or a hold on DREQ (R260, R275). -/
theorem Dma.InChain.schedulerTurn_cases (place : s.dma.InChain s.lat.mode g)
    (stored : ChainIn s.ram.cb s.lat.mode g) (fits : g.n ≤ s.cfg.symWords) (small : s.cfg.symWords ≤ 65536)
    (ha : s.dma.active = true) (ht : schedulerTurn s = .next t) :
    (s.dma.loaded = false ∧ t = { s.drew 8 with dma := s.dma.load (s.dma.block s.lat.mode g) }) ∨
    (s.dma.loaded = true ∧ s.dma.txfrLen = 0#32 ∧ t = { s with dma := s.dma.finish }) ∨
    (s.dma.loaded = true ∧ s.dma.txfrLen ≠ 0#32 ∧ s.moveReady = true ∧
      t = { (s.push (s.sourceWord s.dma.sourceAd)).drew 1 with dma := s.dma.advance }) ∨
    (s.dma.loaded = true ∧ s.dma.txfrLen ≠ 0#32 ∧ s.moveReady = false ∧ t = s) := by
  cases hl : s.dma.loaded with
  | false =>
    have k : schedulerTurn s = Machine.fetchTurn s := by simp [schedulerTurn, ha, hl]
    rw [k, place.fetchTurn stored (fits.trans small) hl] at ht
    exact .inl ⟨rfl, (Host.Outcome.next.inj ht).symm⟩
  | true =>
    refine .inr ?_
    obtain rfl : s.runLoaded = t := by simpa [schedulerTurn, exec, execCb, ha, hl] using ht
    rcases runLoaded_cases (s := s) with ⟨hlen, k⟩ | ⟨hlen, ready, k⟩ | ⟨hlen, held, k⟩
    · exact .inl ⟨rfl, hlen, k.trans (finishBlock_eq s)⟩
    · exact .inr (.inl ⟨rfl, hlen, ready, k.trans ((place.atWork hl).moveWord fits hl hlen ready)⟩)
    · exact .inr (.inr ⟨rfl, hlen, held, k⟩)

/-! ## What is still to come

A chain has two blocks, and a block is fetched before its words move and finished after them. -/

/-- The scheduler's steps still to come in a chain that move no word. -/
def Dma.overhead (d : Dma) : Nat := (if d.conblkAd = cbBase then 2 else 0) + (if d.loaded then 1 else 2)

/-- The scheduler's steps still to come in a chain. -/
def Dma.stepsLeft (d : Dma) (g : Geometry) : Nat :=
  if d.active then g.n - d.nextSource g + d.overhead else 0

theorem Dma.nextSource_idle (hi : d.active = false) (g : Geometry) : d.nextSource g = g.n := by
  simp [Dma.nextSource, hi]

theorem Dma.nextSource_loaded (ha : d.active = true) (hl : d.loaded = true) (g : Geometry) :
    d.nextSource g = d.sourceAd.toNat / 4 := by
  simp [Dma.nextSource, ha, hl]

/-- A fetch moves no word (R264). -/
theorem Dma.InChain.nextSource_load (place : d.InChain m g) (fits : g.n ≤ 65536) (ha : d.active = true)
    (hl : d.loaded = false) : (d.load (d.block m g)).nextSource g = d.nextSource g := by
  rw [Dma.nextSource_loaded (d := d.load (d.block m g)) ha rfl]
  rcases place with ⟨hc, -⟩ | ⟨hc, -⟩
  · simp [Dma.nextSource, ha, hl, Dma.load, Dma.block, hc, dataBlock]
  · have size : (BitVec.ofNat 32 (4 * g.l * g.d)).toNat = 4 * (g.l * g.d) := by
      rw [Nat.mul_assoc]
      exact toNat_byteCount (by have := g.n_eq; omega)
    have second : cbBase + 0x20#32 ≠ cbBase := by decide
    simp only [Dma.nextSource, ha, hl, Dma.load, Dma.block, hc, second, tailBlock, size, if_true, if_false,
      Bool.false_eq_true]
    omega

/-- A finish moves no word: what it leaves is the next block's words, or none (R272, R273). -/
theorem Dma.InChain.nextSource_finish (place : d.InChain m g) (ha : d.active = true) (hl : d.loaded = true)
    (hlen : d.txfrLen = 0#32) : d.finish.nextSource g = d.nextSource g := by
  rw [Dma.nextSource_loaded ha hl]
  have second : cbBase + 0x20#32 ≠ cbBase := by decide
  have more : cbBase + 0x20#32 ≠ 0#32 := by decide
  rcases place with ⟨-, k⟩ | ⟨-, k⟩ <;> obtain ⟨-, -, next, ends, -, -⟩ := k hl
  · simp only [Dma.finish, next, dataBlock, more, if_false, Dma.nextSource, ha, second, Bool.false_eq_true, if_true]
    simp only [hlen, BitVec.toNat_ofNat] at ends
    omega
  · simp only [Dma.finish, next, tailBlock, if_true, Dma.nextSource, Bool.false_eq_true, if_false]
    simp only [hlen, BitVec.toNat_ofNat] at ends
    omega

/-- A move takes the next word of the frame (R271). -/
theorem Dma.InChain.nextSource_advance (place : d.InChain m g) (fits : g.n ≤ 65536) (ha : d.active = true)
    (hl : d.loaded = true) (hlen : d.txfrLen ≠ 0#32) :
    d.nextSource g < g.n ∧ d.advance.nextSource g = d.nextSource g + 1 := by
  have pos : d.txfrLen.toNat ≠ 0 := fun k => hlen (BitVec.eq_of_toNat_eq k)
  have w := place.atWork hl
  have within := w.within
  have source := w.source
  have length := w.length
  have inc : (tiFields d.ti).srcInc = true := by
    rcases place with ⟨-, k⟩ | ⟨-, k⟩ <;> rw [(k hl).ti, tiFields_tiWord] <;> rfl
  have up : (d.sourceAd + 4#32).toNat = d.sourceAd.toNat + 4 := by
    rw [BitVec.toNat_add]
    exact Nat.mod_eq_of_lt (by simp only [BitVec.toNat_ofNat]; omega)
  rw [Dma.nextSource_loaded ha hl, Dma.nextSource_loaded (d := d.advance) ha hl]
  simp only [Dma.advance, inc, if_true, up]
  omega

/-- A fetch is a step of the chain done. -/
theorem Dma.InChain.stepsLeft_load (place : d.InChain m g) (fits : g.n ≤ 65536) (ha : d.active = true)
    (hl : d.loaded = false) : (d.load (d.block m g)).stepsLeft g < d.stepsLeft g := by
  unfold Dma.stepsLeft
  rw [place.nextSource_load fits ha hl]
  have active : (d.load (d.block m g)).active = true := ha
  have cost : (d.load (d.block m g)).overhead + 1 = d.overhead := by
    show (if d.conblkAd = cbBase then 2 else 0) + 1 + 1 = d.overhead
    simp [Dma.overhead, hl]
  rw [if_pos active, if_pos ha]
  omega

/-- A finish is a step of the chain done. -/
theorem Dma.InChain.stepsLeft_finish (place : d.InChain m g) (ha : d.active = true) (hl : d.loaded = true)
    (hlen : d.txfrLen = 0#32) : d.finish.stepsLeft g < d.stepsLeft g := by
  unfold Dma.stepsLeft
  rw [place.nextSource_finish ha hl hlen, if_pos ha]
  have second : cbBase + 0x20#32 ≠ cbBase := by decide
  have more : cbBase + 0x20#32 ≠ 0#32 := by decide
  rcases place with ⟨hc, k⟩ | ⟨hc, k⟩ <;> have next := (k hl).next
  · have cost : d.finish.overhead + 1 = d.overhead := by
      simp [Dma.overhead, Dma.finish, next, dataBlock, more, hl, hc, second]
    split <;> omega
  · have idle : d.finish.active = false := by simp [Dma.finish, next, tailBlock]
    have cost : 0 < d.overhead := by simp [Dma.overhead, hl]
    rw [if_neg (by simp [idle])]
    omega

/-- A move is a step of the chain done. -/
theorem Dma.InChain.stepsLeft_advance (place : d.InChain m g) (fits : g.n ≤ 65536) (ha : d.active = true)
    (hl : d.loaded = true) (hlen : d.txfrLen ≠ 0#32) : d.advance.stepsLeft g < d.stepsLeft g := by
  obtain ⟨more, next⟩ := place.nextSource_advance fits ha hl hlen
  have active : d.advance.active = true := ha
  have cost : d.advance.overhead = d.overhead := rfl
  unfold Dma.stepsLeft
  rw [next, cost, if_pos active, if_pos ha]
  omega

end Sys2Proof.Machine
end

section
/-! A turn between the arming of a transfer and the next clear step: what it can do to the wire, said once (R276, R280
to R283, R287). -/

namespace Sys2Proof.Machine

open State

variable {s t : State} {e : Event} {g : Geometry} {frame : List Word}

/-! ## The frame in flight -/

/-- Out of reset, a transfer is under way or over, and FINI has not stopped it. -/
structure State.Sending (s : State) : Prop where
  rstN  : s.env.rstN = true
  state : s.seq.state = .submitted ∨ s.seq.state = .complete
  calm  : ¬ s.seq.phase.stopping

/-- What the wire still carries is in `t` as in `s`: at most some words are further along. -/
structure WireKept (s t : State) : Prop where
  cfg     : t.cfg = s.cfg
  lat     : t.lat = s.lat
  snap    : t.snap = s.snap
  lane    : t.ser.lane = s.ser.lane
  sym     : t.ram.sym = s.ram.sym
  state   : t.seq.state = s.seq.state
  xferErr : t.seq.xferErr = s.seq.xferErr
  error   : t.dma.error = s.dma.error
  words   : ∀ {g frame}, s.InFlight g frame →
    t.ser.fifo ++ frame.drop (t.dma.nextSource g) = s.ser.fifo ++ frame.drop (s.dma.nextSource g)

theorem State.builtGeometry_congr (hl : t.lat = s.lat) (b : Pair BuiltFor) : t.builtGeometry b = s.builtGeometry b := by
  unfold State.builtGeometry
  rw [hl]

/-- A frame in flight depends on the latched configuration, on symbol RAM and on how many words are left. -/
theorem State.InFlight.congr (f : s.InFlight g frame) (hl : t.lat = s.lat) (hs : t.ram.sym = s.ram.sym)
    (whole : (t.ser.fifo ++ frame.drop (t.dma.nextSource g)).length % g.l = 0) : t.InFlight g frame where
  built := by
    obtain ⟨b, hb, hg⟩ := f.built
    exact ⟨b, by rw [hl]; exact hb, (builtGeometry_congr hl b).trans hg⟩
  length := f.length
  stored := fun k w hk => by rw [hs]; exact f.stored k w hk
  whole := whole

theorem WireKept.inFlight (k : WireKept s t) (f : s.InFlight g frame) : t.InFlight g frame :=
  f.congr k.lat k.sym (by rw [k.words f]; exact f.whole)

theorem WireKept.laneAhead (k : WireKept s t) (f : s.InFlight g frame) (l : Chan) :
    t.laneAhead g frame l = s.laneAhead g frame l := by
  unfold State.laneAhead
  rw [k.words f, k.lane, k.lat]

/-- The geometry of a frame in flight has the mode's lanes (R219). -/
theorem State.InFlight.lanes (f : s.InFlight g frame) : g.l = s.lat.mode.lanes := by
  obtain ⟨b, -, rfl⟩ := f.built
  rfl

/-- The chain of a frame in flight is in CB RAM and fits, and a running scheduler is inside it. -/
theorem State.InFlight.inChain (f : s.InFlight g frame) (h : s.Inv) (ha : s.dma.active = true) :
    s.dma.InChain s.lat.mode g ∧ ChainIn s.ram.cb s.lat.mode g ∧ g.n ≤ s.cfg.symWords := by
  obtain ⟨b, hb, rfl⟩ := f.built
  obtain ⟨b', hb', stored, fits, place⟩ := h.inChain ha
  obtain rfl := Option.some.inj (hb.symm.trans hb')
  exact ⟨place, stored, fits⟩

/-- With the scheduler stopped, an underfull FIFO is empty: what is left divides among the lanes. -/
theorem State.InFlight.fifo_eq_nil (f : s.InFlight g frame) (idle : s.dma.active = false)
    (few : s.ser.fifo.length < s.lat.mode.lanes) : s.ser.fifo ++ frame.drop (s.dma.nextSource g) = [] := by
  have nil : frame.drop (s.dma.nextSource g) = [] := by
    rw [Dma.nextSource_idle idle, ← f.length]
    exact List.drop_length
  have whole := f.whole
  rw [nil, List.append_nil] at whole ⊢
  rw [f.lanes, Nat.mod_eq_of_lt few] at whole
  exact List.length_eq_zero_iff.mp whole

/-! ## The running scheduler -/

/-- A step of the running scheduler. -/
structure SchedulerMoves (s t : State) : Prop extends WireKept s t where
  active : s.dma.active = true
  left   : ∀ {g frame}, s.InFlight g frame → t.dma.stepsLeft g < s.dma.stepsLeft g

/-- The word a move reads is the frame's next one (R271). -/
theorem State.InFlight.sourceWord (f : s.InFlight g frame) (ha : s.dma.active = true) (hl : s.dma.loaded = true)
    (more : s.dma.nextSource g < g.n) : frame.drop (s.dma.nextSource g) =
      s.sourceWord s.dma.sourceAd :: frame.drop (s.dma.nextSource g + 1) := by
  have inside : s.dma.nextSource g < frame.length := f.length ▸ more
  rw [List.drop_eq_getElem_cons inside, State.sourceWord, ← Dma.nextSource_loaded ha hl g,
    wordOr_of_some s 0 _ (f.stored _ _ (List.getElem?_eq_getElem inside))]

/-- The running scheduler takes no word off the wire and raises no error; its enabled steps come to an end (R275). -/
theorem schedulerTurn_running (h : s.Inv) (hr : s.env.rstN = true) (ha : s.dma.active = true)
    (ht : schedulerTurn s = .next t) : SchedulerMoves s t ∨ (s.schedulerEnabled = false ∧ t = s) := by
  obtain ⟨b, hb, stored, fits, place⟩ := h.inChain ha
  have chain {g frame} (f : s.InFlight g frame) : s.dma.InChain s.lat.mode g ∧ g.n ≤ 65536 := by
    obtain ⟨place, -, fits⟩ := f.inChain h ha
    exact ⟨place, fits.trans h.symWords_le⟩
  have geometry {g frame} (f : s.InFlight g frame) : s.builtGeometry b = g := by
    obtain ⟨b', hb', hg⟩ := f.built
    obtain rfl := Option.some.inj (hb.symm.trans hb')
    exact hg
  rcases place.schedulerTurn_cases stored fits h.symWords_le ha ht with
    ⟨hl, rfl⟩ | ⟨hl, hlen, rfl⟩ | ⟨hl, hlen, -, rfl⟩ | ⟨hl, hlen, held, rfl⟩
  · refine .inl ⟨⟨rfl, rfl, rfl, rfl, rfl, rfl, rfl, rfl, fun f => ?_⟩, ha, fun f => ?_⟩
    · exact congrArg (fun k => s.ser.fifo ++ List.drop k _)
        (geometry f ▸ place.nextSource_load (fits.trans h.symWords_le) ha hl)
    · exact geometry f ▸ place.stepsLeft_load (fits.trans h.symWords_le) ha hl
  · refine .inl ⟨⟨rfl, rfl, rfl, rfl, rfl, rfl, rfl, ?_, fun f => ?_⟩, ha, fun f => ?_⟩
    · unfold Dma.finish
      split <;> rfl
    · exact congrArg (fun k => s.ser.fifo ++ List.drop k _) ((chain f).1.nextSource_finish ha hl hlen)
    · exact (chain f).1.stepsLeft_finish ha hl hlen
  · refine .inl ⟨⟨rfl, rfl, rfl, rfl, rfl, rfl, rfl, rfl, fun {g frame} f => ?_⟩, ha, fun f => ?_⟩
    · obtain ⟨more, next⟩ := (chain f).1.nextSource_advance (chain f).2 ha hl hlen
      rw [f.sourceWord ha hl more, ← List.singleton_append, ← List.append_assoc, ← next]
      rfl
    · exact (chain f).1.stepsLeft_advance (chain f).2 ha hl hlen
  · exact .inr ⟨by simp [State.schedulerEnabled, hr, ha, hl, hlen, held], rfl⟩

end Sys2Proof.Machine
end

section
/-! Every turn between the arming of a transfer and the next clear step: nothing of the wire, a step of the running
scheduler, the completion, an underrun, or one sub-bit on every lane. -/

namespace Sys2Proof.Machine

open State

variable {s t : State} {e : Event} {g : Geometry} {frame : List Word}

/-! ## Turns that leave the wire alone -/

/-- The scheduler, the serializer and what they work on are as they were. -/
structure SameWire (s t : State) : Prop where
  cfg     : t.cfg = s.cfg
  lat     : t.lat = s.lat
  snap    : t.snap = s.snap
  dma     : t.dma = s.dma
  ser     : t.ser = s.ser
  sym     : t.ram.sym = s.ram.sym
  state   : t.seq.state = s.seq.state
  xferErr : t.seq.xferErr = s.seq.xferErr

theorem SameWire.refl (s : State) : SameWire s s := ⟨rfl, rfl, rfl, rfl, rfl, rfl, rfl, rfl⟩

theorem SameWire.kept (k : SameWire s t) : WireKept s t where
  cfg := k.cfg
  lat := k.lat
  snap := k.snap
  lane := by rw [k.ser]
  sym := k.sym
  state := k.state
  xferErr := k.xferErr
  error := by rw [k.dma]
  words := fun _ => by rw [k.ser, k.dma]

/-- A host access leaves the wire alone (R103 to R105). -/
theorem hostAccess_sameWire {offset : BitVec 20} {bytes : Nat} {op : HostOp}
    (h : s.hostAccess offset bytes op = .next t) : SameWire s t := by
  rcases hostAccess_cases h with ⟨-, ⟨-, rfl⟩ | ⟨v, -, rfl⟩⟩
  · rcases hostTarget s.cfg offset with r | _ | _ | _ | _ | _
    case reg => cases r <;> exact ⟨rfl, rfl, rfl, rfl, rfl, rfl, rfl, rfl⟩
    all_goals exact ⟨rfl, rfl, rfl, rfl, rfl, rfl, rfl, rfl⟩
  · rcases hostTarget s.cfg offset with r | _ | _ | _ | _ | _
    case reg =>
      cases r
      case cmd =>
        simp only [hostWrite, writeTarget, writeReg, Seq.writeCmd]
        split <;> exact ⟨rfl, rfl, rfl, rfl, rfl, rfl, rfl, rfl⟩
      all_goals exact ⟨rfl, rfl, rfl, rfl, rfl, rfl, rfl, rfl⟩
    all_goals exact ⟨rfl, rfl, rfl, rfl, rfl, rfl, rfl, rfl⟩

/-- A new phase, or a command's end, leaves the wire alone. -/
theorem goto_sameWire (s : State) (p : Phase) (x : Hold) : SameWire s (s.goto p x) :=
  ⟨rfl, rfl, rfl, rfl, rfl, rfl, rfl, rfl⟩

theorem complete_sameWire (s : State) (code : RetCode) : SameWire s (s.complete code) :=
  ⟨rfl, rfl, rfl, rfl, rfl, rfl, rfl, rfl⟩

theorem State.Sending.not_uninit (hs : s.Sending) : s.seq.state ≠ .uninit := by
  rcases hs.state with k | k <;> rw [k] <;> nofun

/-- The turn from `s` to `t` is no reset, no FINI and no clear step of a RENDER. -/
structure GoesOn (s t : State) : Prop where
  rstN  : t.env.rstN = true
  calm  : ¬ t.seq.phase.stopping
  state : s.seq.state = .complete → t.seq.state ≠ .idle

/-- INIT fails in an initialised block (R310). -/
theorem execInit_sameWire (hp : s.PhaseOk) (hs : s.Sending) (ht : execInit s = .next t) : SameWire s t := by
  have live := hs.not_uninit
  unfold State.PhaseOk at hp
  rcases execInit_cases ht with ⟨a, ph, -⟩ | ⟨a, t0, ph, -⟩ | ⟨a, ph, -⟩ | ⟨a, t0, ph, -⟩ | ⟨code, -, rfl⟩ | ⟨a, ok, -⟩
  case inr.inr.inr.inr.inl => exact complete_sameWire s code
  case inr.inr.inr.inr.inr => exact absurd (initChecks_ok ok).1 live
  all_goals
    rw [ph] at hp
    exact absurd hp.2.1 live

/-- FINI stops the transfer (R334). -/
theorem execFini_not_goesOn (hs : s.Sending) (ht : execFini s = .next t) : ¬ GoesOn s t := by
  rcases execFini_cases ht with ⟨ph, -⟩ | ⟨t0, ph, -⟩ | ⟨hu, -⟩ | ⟨-, rfl⟩
  · exact absurd (show s.seq.phase.stopping by rw [ph]; trivial) hs.calm
  · exact absurd (show s.seq.phase.stopping by rw [ph]; trivial) hs.calm
  · exact absurd hu hs.not_uninit
  · exact fun k => k.calm trivial

/-- RENDER holds for the transfer and the latch interval; its clear step ends what was sent (R320). -/
theorem execRender_sameWire (hp : s.PhaseOk) (hs : s.Sending) (ht : execRender s = .next t) (tt : GoesOn s t) :
    SameWire s t := by
  have state := hs.state
  have cleared (ph : s.seq.phase = .renderLatch) (k : t.seq.state = .idle) : SameWire s t := by
    unfold State.PhaseOk at hp
    rw [ph] at hp
    rcases hp.2 with y | y
    · simp [y] at state
    · exact absurd k (tt.state y)
  unfold State.PhaseOk at hp
  rcases execRender_cases ht with ⟨-, ⟨-, rfl⟩ | ⟨-, rfl⟩⟩ | ⟨ph, ⟨-, rfl⟩ | ⟨code, -, -, rfl⟩ | ⟨-, -, rfl⟩⟩ |
    ⟨ph, -⟩ | ⟨g0, g1, ph, -⟩ | ⟨ph, -⟩ | ⟨ph, -⟩ | ⟨hu, -⟩ | ⟨-, rfl⟩
  · exact .refl _
  · exact goto_sameWire s _ _
  · exact .refl _
  · exact cleared ph rfl
  · exact cleared ph rfl
  iterate 4
    rw [ph] at hp
    simp [hp.2.1] at state
  · exact absurd hu hs.not_uninit
  · exact goto_sameWire s _ _

/-- The sequencer's turn leaves the wire alone until FINI or RENDER's clear step (R300, R320, R334). -/
theorem sequencerTurn_sameWire (hp : s.PhaseOk) (hs : s.Sending) (ht : sequencerTurn s = .next t) (tt : GoesOn s t) :
    SameWire s t := by
  rcases sequencerTurn_cases ht with ⟨-, k⟩ | ⟨-, rfl⟩
  · cases hc : decodeCmd s.seq.cmd <;> simp only [hc, exec] at k
    case init => exact execInit_sameWire hp hs k
    case fini => exact absurd tt (execFini_not_goesOn hs k)
    case render => exact execRender_sameWire hp hs k tt
    case wait =>
      rcases execWait_cases k with ⟨_, -, ⟨-, rfl⟩ | ⟨-, -, rfl⟩ | ⟨-, -, -, rfl⟩⟩ | ⟨-, rfl⟩ | ⟨-, rfl⟩ | ⟨-, -, rfl⟩
      · exact .refl _
      case inr.inr.inr => exact goto_sameWire s _ _
      all_goals exact complete_sameWire s _
    case setGamma ch =>
      rcases execSetGamma_cases k with ⟨-, rfl⟩ | ⟨-, rfl⟩ <;> exact ⟨rfl, rfl, rfl, rfl, rfl, rfl, rfl, rfl⟩
    case cmdMalformed =>
      obtain rfl := Host.Outcome.next.inj k
      exact complete_sameWire s _
    case cb b => exact absurd hc (decodeCmd_ne_cb _ b)
  · exact .refl _

/-! ## All turns -/

/-- A tick sends a sub-bit on every lane in use (R282, R283). -/
def State.Sends (s : State) : Prop := s.ticks = true ∧ s.starved = false

/-- What a turn does between arming and the next clear step. -/
inductive SendingTurn (e : Event) (s t : State) : Prop
  | same (k : SameWire s t) (held : e = .scheduler → s.schedulerEnabled = false) (dark : e = .serializer → ¬ s.Sends)
  | moves (he : e = .scheduler) (k : SchedulerMoves s t)
  | completes (he : e = .scheduler) (ready : s.completionReady = true)
      (k : t = { s with seq := { s.seq with state := .complete } })
  | underruns (he : e = .serializer) (starved : s.starved = true) (anytime : s.cfg.transferErrors = .anytime)
      (k : t = s.raiseDmaError .underrun)
  | sends (he : e = .serializer) (sends : s.Sends) (k : t = s.shiftStep)

theorem schedulerTurn_sending (h : s.Inv) (hr : s.env.rstN = true) (ht : schedulerTurn s = .next t) :
    SendingTurn .scheduler s t := by
  cases ha : s.dma.active with
  | true =>
    rcases schedulerTurn_running h hr ha ht with k | ⟨held, rfl⟩
    · exact .moves rfl k
    · exact .same (.refl _) (fun _ => held) nofun
  | false =>
    obtain rfl : s.completionStep = t := by simpa [schedulerTurn, ha] using ht
    rcases completionStep_cases (s := s) with ⟨ready, k⟩ | ⟨no, k⟩
    · exact .completes rfl ready k
    · exact .same (k.symm ▸ .refl s) (fun _ => by simp [State.schedulerEnabled, ha, no]) nofun

theorem tick_sending (s : State) : SendingTurn .serializer s s.tick := by
  rcases tick_cases (s := s) with ⟨no, k⟩ | ⟨-, starved, anytime, k⟩ | ⟨-, starved, -, k⟩ | ⟨ticks, fed, k⟩ <;> rw [k]
  · exact .same (.refl s) nofun fun _ x => absurd (x.1.symm.trans no) nofun
  · exact .underruns rfl starved anytime rfl
  · exact .same (.refl s) nofun fun _ x => absurd (starved.symm.trans x.2) nofun
  · exact .sends rfl ⟨ticks, fed⟩ rfl

/-- Every turn between arming and the next clear step, FINI or reset. -/
theorem turn_sending (h : s.Inv) (hs : s.Sending) (ht : turn e s = .next t) (tt : GoesOn s t) : SendingTurn e s t := by
  cases e with
  | host offset bytes op => exact .same (hostAccess_sameWire ht) nofun nofun
  | platform address bytes op =>
    rcases platformAccess_cases ht with ⟨_, -, k⟩ | ⟨-, rfl⟩
    · exact .same (hostAccess_sameWire k) nofun nofun
    · exact .same (.refl _) nofun nofun
  | sequencer => exact .same (sequencerTurn_sameWire h.phase hs ht tt) nofun nofun
  | scheduler => exact schedulerTurn_sending h hs.rstN ht
  | serializer => exact Host.Outcome.next.inj ht ▸ tick_sending s
  | resetLow =>
    obtain rfl := Host.Outcome.next.inj ht
    exact absurd tt.rstN nofun
  | clockManager =>
    obtain rfl := Host.Outcome.next.inj ht
    exact .same ⟨rfl, rfl, rfl, rfl, rfl, rfl, rfl, rfl⟩ nofun nofun
  | timer =>
    obtain rfl := Host.Outcome.next.inj ht
    exact .same ⟨rfl, rfl, rfl, rfl, rfl, rfl, rfl, rfl⟩ nofun nofun
  | resetHigh => exact .same (Host.Outcome.next.inj ht ▸ .refl s) nofun nofun
  | setProfileId v => exact .same (Host.Outcome.next.inj ht ▸ .refl s) nofun nofun

end Sys2Proof.Machine
end

section
/-! One sub-bit on every lane: what a tick takes from the sub-bits still to be sent, and what it drives (R281, R282). -/

namespace Sys2Proof.Machine

open State

variable {s t : State} {e : Event} {g : Geometry} {frame : List Word}

/-! ## One lane -/

/-- The sub-bits in a lane's shift register (R281). -/
def Lane.pending (l : Lane) : List Bool := (subBitsOf l.shreg).take l.left

theorem Lane.pending_eq_nil {l : Lane} : l.pending = [] ↔ l.left = 0 := by
  simp [Lane.pending, ← List.length_eq_zero_iff]

theorem Lane.pending_load (l : Lane) (v : Word) : (l.load v).pending = subBitsOf v :=
  List.take_of_length_le (length_subBitsOf v).le

/-- A shift sends the first pending sub-bit, or the idle level (R282, R285). -/
theorem Lane.shift_pending {l : Lane} (hl : l.left ≤ 32) (idle : Bool) :
    (l.shift idle).pending = l.pending.tail ∧ (l.shift idle).out = (l.oe && l.pending.head?.getD idle) := by
  unfold Lane.pending Lane.shift Lane.drive
  rcases hk : l.left with _ | k
  · simp
  · rw [take_succ_subBitsOf _ _ (by omega)]
    simp

/-! ## All lanes -/

theorem laneAhead_eq (s : State) (g : Geometry) (frame : List Word) (l : Chan) :
    s.laneAhead g frame l = (s.ser.lane.get l).pending ++
      (laneWords s.lat.mode l (s.ser.fifo ++ frame.drop (s.dma.nextSource g))).flatMap subBitsOf := rfl

/-- The lanes in use are in step (R63, R282). -/
theorem State.Inv.left_eq (h : s.Inv) {l : Chan} (hl : l.toNat < s.lat.mode.lanes) :
    (s.ser.lane.get l).left = s.ser.lane.ch0.left := by
  cases l with
  | ch0 => rfl
  | ch1 => exact h.left1.trans (if_pos (s.lat.mode.one_lt_lanes.mp hl))

theorem loadLanes_get {l : Chan} {lanes : Nat} (r : Ser) (hl : l.toNat < lanes) :
    (r.loadLanes lanes).lane.get l = (r.lane.get l).load ((r.fifo[l.toNat]?).getD 0#32) := by
  cases l <;> exact if_pos hl

theorem shiftLanes_get {l : Chan} {lanes : Nat} (r : Ser) (idle : Pair Bool) (hl : l.toNat < lanes) :
    (r.shiftLanes lanes idle).lane.get l = (r.lane.get l).shift (idle.get l) := by
  cases l <;> exact if_pos hl

theorem idleLevels_get (s : State) (l : Chan) : s.idleLevels.get l = (s.snap.get l).invert := by cases l <;> rfl

/-- The state in which a tick's sub-bits are sent: the lanes loaded, where they are empty and enough words wait. -/
def State.afterLoad (s : State) : State :=
  { s with ser :=
      if s.ser.lane.ch0.left = 0 ∧ s.lat.lanes ≤ s.ser.fifo.length then s.ser.loadLanes s.lat.lanes else s.ser }

theorem afterLoad_of_ready (h : s.ser.lane.ch0.left = 0 ∧ s.lat.lanes ≤ s.ser.fifo.length) :
    s.afterLoad = { s with ser := s.ser.loadLanes s.lat.lanes } := by
  unfold State.afterLoad
  rw [if_pos h]

theorem afterLoad_of_not_ready (h : ¬ (s.ser.lane.ch0.left = 0 ∧ s.lat.lanes ≤ s.ser.fifo.length)) :
    s.afterLoad = s := by
  unfold State.afterLoad
  rw [if_neg h]

/-- A tick shifts each lane in use (R282). -/
theorem shiftStep_get {l : Chan} (hl : l.toNat < s.lat.lanes) :
    s.shiftStep.ser.lane.get l = (s.afterLoad.ser.lane.get l).shift (s.snap.get l).invert :=
  (shiftLanes_get s.afterLoad.ser s.idleLevels hl).trans (by rw [idleLevels_get])

/-- The lanes not in use are left alone (R282). -/
theorem shiftStep_get_unused {l : Chan} (hl : s.lat.lanes ≤ l.toNat) :
    s.shiftStep.ser.lane.get l = s.ser.lane.get l := by
  have shifted : s.shiftStep.ser.lane.get l = s.afterLoad.ser.lane.get l := by
    cases l <;> exact if_neg (Nat.not_lt.mpr hl)
  rw [shifted, State.afterLoad]
  split
  · cases l <;> exact if_neg (Nat.not_lt.mpr hl)
  · rfl

/-- A tick leaves the FIFO as the load does, and nothing else but the lanes changes (R282). -/
theorem shiftStep_frame (s : State) : s.shiftStep =
    { s with ser := { s.ser with fifo := s.afterLoad.ser.fifo, lane := s.shiftStep.ser.lane } } := by
  have enabled : s.afterLoad.ser.enabled = s.ser.enabled := by
    unfold State.afterLoad
    split <;> rfl
  exact congrArg (fun x => ({ s with ser := ⟨x, s.afterLoad.ser.fifo, s.shiftStep.ser.lane⟩ } : State)) enabled

/-- A load leaves the output enables (R282). -/
theorem afterLoad_oe (s : State) (l : Chan) : (s.afterLoad.ser.lane.get l).oe = (s.ser.lane.get l).oe := by
  unfold State.afterLoad
  split
  · cases l <;> simp only [Ser.loadLanes, Pair.get] <;> split <;> rfl
  · rfl

theorem State.Inv.afterLoad (h : s.Inv) (he : s.ser.enabled = true) : s.afterLoad.Inv := by
  unfold State.afterLoad
  split
  · exact h.loadLanes he (And.right ‹_›)
  · exact h

/-- A load only moves words from the FIFO to the lanes (R282). -/
theorem State.InFlight.afterLoad (f : s.InFlight g frame) (h : s.Inv) (hlanes : s.lat.lanes = s.lat.mode.lanes) :
    s.afterLoad.InFlight g frame ∧ ∀ l : Chan, l.toNat < s.lat.lanes →
      s.afterLoad.laneAhead g frame l = s.laneAhead g frame l := by
  by_cases ready : s.ser.lane.ch0.left = 0 ∧ s.lat.lanes ≤ s.ser.fifo.length
  · rw [afterLoad_of_ready ready]
    obtain ⟨empty, enough⟩ := ready
    have drop (ws : List Word) :
        (s.ser.fifo.drop s.lat.lanes ++ ws) = (s.ser.fifo ++ ws).drop s.lat.lanes :=
      (List.drop_append_of_le_length enough).symm
    refine ⟨f.congr rfl rfl ?_, fun l hl => ?_⟩
    · show (s.ser.fifo.drop s.lat.lanes ++ frame.drop (s.dma.nextSource g)).length % g.l = 0
      have whole := f.whole
      rw [drop, List.length_drop, hlanes, ← f.lanes, ← Nat.mod_eq_sub_mod]
      · exact whole
      · rw [f.lanes, ← hlanes, List.length_append]
        omega
    · have nil : (s.ser.lane.get l).pending = [] :=
        Lane.pending_eq_nil.mpr ((h.left_eq (hlanes ▸ hl)).trans empty)
      rw [laneAhead_eq, laneAhead_eq, nil, loadLanes_get _ hl, Lane.pending_load,
        laneWords_cons (hlanes ▸ hl) (s.ser.fifo ++ _) (by rw [← hlanes, List.length_append]; omega),
        List.getElem?_append_left (hl.trans_le enough), ← hlanes, ← drop]
      rfl
  · rw [afterLoad_of_not_ready ready]
    exact ⟨f, fun _ _ => rfl⟩

/-- After the load, a lane that is empty has no more words to come (R276, R282, R283). -/
theorem State.InFlight.afterLoad_empty (f : s.InFlight g frame) (hlanes : s.lat.lanes = s.lat.mode.lanes)
    (fed : s.starved = false) (empty : s.afterLoad.ser.lane.ch0.left = 0) :
    s.afterLoad.ser.fifo ++ frame.drop (s.afterLoad.dma.nextSource g) = [] := by
  by_cases ready : s.ser.lane.ch0.left = 0 ∧ s.lat.lanes ≤ s.ser.fifo.length
  · rw [afterLoad_of_ready ready] at empty
    have pos : Chan.ch0.toNat < s.lat.lanes := hlanes ▸ s.lat.mode.lanes_pos
    have full : (s.ser.loadLanes s.lat.lanes).lane.ch0.left = 32 :=
      congrArg Lane.left (loadLanes_get (l := .ch0) s.ser pos)
    exact absurd (full.symm.trans empty) nofun
  · rw [afterLoad_of_not_ready ready] at empty ⊢
    have few : s.ser.fifo.length < s.lat.lanes := Nat.lt_of_not_le fun k => ready ⟨empty, k⟩
    have idle : s.dma.active = false := by simpa [State.starved, empty, few] using fed
    exact f.fifo_eq_nil idle (hlanes ▸ few)

/-- A tick that sends takes the first sub-bit ahead on each lane in use, and drives it; the frame stays in flight. -/
theorem State.InFlight.shiftStep (f : s.InFlight g frame) (h : s.Inv) (sends : s.Sends) :
    s.shiftStep.InFlight g frame ∧ ∀ l : Chan, l.toNat < s.lat.lanes →
      s.shiftStep.laneAhead g frame l = (s.laneAhead g frame l).tail ∧
        (s.shiftStep.ser.lane.get l).out = ((s.ser.lane.get l).oe &&
          ((s.laneAhead g frame l).head?.getD (s.snap.get l).invert)) := by
  obtain ⟨ticks, fed⟩ := sends
  have he : s.ser.enabled = true := (Bool.and_eq_true_iff.mp ticks).1
  have hlanes := h.lanes_of_enabled he
  obtain ⟨flight, same⟩ := f.afterLoad h hlanes
  have inv := h.afterLoad he
  refine ⟨flight.congr rfl rfl flight.whole, fun l hl => ?_⟩
  have left := inv.left_eq (l := l) (hlanes ▸ hl)
  obtain ⟨pending, out⟩ := Lane.shift_pending (l := s.afterLoad.ser.lane.get l) (left ▸ inv.left0)
    (s.snap.get l).invert
  rw [← same l hl, ← afterLoad_oe, laneAhead_eq, laneAhead_eq s.afterLoad, shiftStep_get hl, pending, out]
  cases hp : (s.afterLoad.ser.lane.get l).pending with
  | nil =>
    have empty : s.afterLoad.ser.lane.ch0.left = 0 := left ▸ Lane.pending_eq_nil.mp hp
    have nil := f.afterLoad_empty hlanes fed empty
    have nil' : s.shiftStep.ser.fifo ++ frame.drop (s.shiftStep.dma.nextSource g) = [] := nil
    simp [nil, nil']
  | cons b bs => exact ⟨rfl, rfl⟩

end Sys2Proof.Machine
end

section
/-! What a step does to a frame in flight (R276, R287). -/

namespace Sys2Proof.Machine

open State

variable {s t : State} {e : Event} {g : Geometry} {frame : List Word}

/-- Outside `SUBMITTED` nothing of a frame is left to send (R276, R286). -/
theorem State.Inv.laneAhead_eq_nil (h : s.Inv) (past : s.seq.state ≠ .submitted) (length : frame.length = g.n)
    (l : Chan) : s.laneAhead g frame l = [] := by
  obtain ⟨fifo, left0, left1⟩ := h.drained past
  have idle : s.dma.active = false := Bool.eq_false_iff.mpr fun k => past (h.activeSubmitted k)
  have empty : (s.ser.lane.get l).pending = [] := Lane.pending_eq_nil.mpr (by cases l <;> assumption)
  rw [laneAhead_eq, empty, fifo, Dma.nextSource_idle idle, ← length, List.drop_length]
  simp

/-- A turn keeps a frame in flight, and takes from it what a tick sends (R281, R282, R287). -/
def CarriesFrame (e : Event) (s t : State) (g : Geometry) (frame : List Word) : Prop :=
  t.InFlight g frame ∧ ∀ l : Chan, l.toNat < s.lat.lanes →
    (e = .serializer ∧ s.Sends → t.laneAhead g frame l = (s.laneAhead g frame l).tail ∧
      (t.ser.lane.get l).out = ((s.ser.lane.get l).oe &&
        ((s.laneAhead g frame l).head?.getD (s.snap.get l).invert))) ∧
    (¬ (e = .serializer ∧ s.Sends) → t.laneAhead g frame l = s.laneAhead g frame l ∧
      (t.ser.lane.get l).out = (s.ser.lane.get l).out)

/-- A turn that raises no error carries the frame on. -/
theorem SendingTurn.carriesFrame (k : SendingTurn e s t) (h : s.Inv) (f : s.InFlight g frame)
    (ok : t.dma.error = false) : CarriesFrame e s t g frame := by
  have kept (w : WireKept s t) (no : ¬ (e = .serializer ∧ s.Sends)) : CarriesFrame e s t g frame :=
    ⟨w.inFlight f, fun l _ => ⟨fun yes => absurd yes no, fun _ => ⟨w.laneAhead f l, by rw [w.lane]⟩⟩⟩
  cases k with
  | same w _ dark => exact kept w.kept fun ⟨he, hs⟩ => dark he hs
  | moves he w => exact kept w.toWireKept fun ⟨he', _⟩ => nomatch he.symm.trans he'
  | completes he _ ht =>
    subst ht
    exact ⟨f.congr rfl rfl f.whole, fun l _ => ⟨fun ⟨he', _⟩ => (nomatch he.symm.trans he'), fun _ => ⟨rfl, rfl⟩⟩⟩
  | underruns _ _ _ ht =>
    subst ht
    exact absurd ok nofun
  | sends he hs ht =>
    subst ht
    obtain ⟨flight, ahead⟩ := f.shiftStep h hs
    exact ⟨flight, fun l hl => ⟨fun _ => ahead l hl, fun no => absurd ⟨he, hs⟩ no⟩⟩

/-- A turn leaves `SUBMITTED` for `COMPLETE` only, without an error by the scheduler's completion (R276, R362). -/
theorem SendingTurn.state (k : SendingTurn e s t) (sub : s.seq.state = .submitted) :
    t.seq.state = .submitted ∨ t.seq.state = .complete ∧ (t.dma.error = false → e = .scheduler) := by
  cases k with
  | same w _ _ => exact .inl (w.state.trans sub)
  | moves _ w => exact .inl (w.state.trans sub)
  | completes he _ ht => exact .inr ⟨ht ▸ rfl, fun _ => he⟩
  | underruns _ _ _ ht => exact .inr ⟨ht ▸ if_pos sub, fun ok => nomatch ht ▸ ok⟩
  | sends _ _ ht => exact .inl (ht ▸ sub)

/-- Settles O57: a turn in `SUBMITTED` is one of five, and only a tick takes anything from what is ahead. -/
theorem wireStep : Obligations.WireStep := by
  unfold Obligations.WireStep
  intro s t g frame h hr f sub calm ht hr' calm' ok
  obtain ⟨es, n, hn, ⟨-, k⟩ | ⟨no, -⟩⟩ := step_cases ht
  case inr => exact absurd (hr.symm.trans no) nofun
  have h' : State.Inv { s with env := { s.env with events := es, draws := n } } := hn ▸ h.nextEvent
  have turn := turn_sending h' ⟨hr, .inl sub, calm⟩ k ⟨hr', calm', fun c => nomatch sub.symm.trans c⟩
  obtain ⟨flight, wire⟩ := turn.carriesFrame h' (f.congr rfl rfl f.whole) ok
  refine ⟨fun _ => ⟨flight, wire⟩, fun past => ?_⟩
  obtain ⟨complete, completes⟩ := (turn.state sub).resolve_left past
  refine ⟨complete, fun l hl => ?_⟩
  have nil : t.laneAhead g frame l = [] := (h'.turn k).laneAhead_eq_nil past f.length l
  have same := ((wire l hl).2 fun tick => nomatch (completes ok).symm.trans tick.1).1
  exact ⟨same.symm.trans nil, nil⟩

end Sys2Proof.Machine
end

section
/-! Which turns raise a DMA error under the invariant: a tick that underruns (R275, R361). -/

namespace Sys2Proof.Machine

open State

variable {s t : State} {e : Event}

/-! ## The commands raise no error -/

theorem execInit_error (h : execInit s = .next t) (err : t.dma.error = true) : s.dma.error = true := by
  rcases execInit_cases h with ⟨_, -, rfl⟩ | ⟨_, _, -, ⟨-, rfl⟩ | ⟨-, -, rfl⟩ | ⟨-, -, rfl⟩⟩ | ⟨_, -, rfl⟩ |
    ⟨_, _, -, ⟨-, rfl⟩ | ⟨-, -, rfl⟩ | ⟨-, -, rfl⟩⟩ | ⟨_, -, rfl⟩ | ⟨_, -, rfl⟩
  case inr.inr.inr.inl.inr.inr => exact nomatch err
  all_goals exact err

theorem execFini_error (h : execFini s = .next t) (err : t.dma.error = true) : s.dma.error = true := by
  rcases execFini_cases h with ⟨-, rfl⟩ | ⟨_, -, ⟨-, rfl⟩ | ⟨-, rfl⟩⟩ | ⟨-, rfl⟩ | ⟨-, rfl⟩
  case inr.inr.inr => exact nomatch err
  all_goals exact err

theorem execRender_error (h : execRender s = .next t) (err : t.dma.error = true) : s.dma.error = true := by
  rcases execRender_cases h with ⟨-, ⟨-, rfl⟩ | ⟨-, rfl⟩⟩ | ⟨-, ⟨-, rfl⟩ | ⟨_, -, -, rfl⟩ | ⟨-, -, rfl⟩⟩ | ⟨-, rfl⟩ |
    ⟨g0, g1, -, rfl⟩ | ⟨-, rfl⟩ | ⟨-, rfl⟩ | ⟨-, rfl⟩ | ⟨-, rfl⟩
  case inr.inl.inr.inl | inr.inl.inr.inr | inr.inr.inr.inr.inr.inl => exact nomatch err
  case inr.inr.inr.inl =>
    rcases encodeStep_cases (s := s) g0 g1 with ⟨-, k⟩ | ⟨-, -, k⟩ | ⟨-, -, k⟩ <;> rw [k] at err <;> exact err
  case inr.inr.inr.inr.inl =>
    rcases buildPhase_cases (s := s) with ⟨-, k⟩ | ⟨-, k⟩ <;> rw [k] at err <;> exact err
  all_goals exact err

theorem sequencerTurn_error (h : sequencerTurn s = .next t) (err : t.dma.error = true) : s.dma.error = true := by
  rcases sequencerTurn_cases h with ⟨-, k⟩ | ⟨-, rfl⟩
  · cases hc : decodeCmd s.seq.cmd <;> simp only [hc, exec] at k
    case init => exact execInit_error k err
    case fini => exact execFini_error k err
    case render => exact execRender_error k err
    case wait =>
      rcases execWait_cases k with ⟨_, -, ⟨-, rfl⟩ | ⟨-, -, rfl⟩ | ⟨-, -, -, rfl⟩⟩ | ⟨-, rfl⟩ | ⟨-, rfl⟩ |
        ⟨-, -, rfl⟩ <;> exact err
    case setGamma ch => rcases execSetGamma_cases k with ⟨-, rfl⟩ | ⟨-, rfl⟩ <;> exact err
    case cmdMalformed => obtain rfl := Host.Outcome.next.inj k; exact err
    case cb b => exact absurd hc (decodeCmd_ne_cb _ b)
  · exact err

/-! ## The turns -/

/-- Between arming and the next clear step, only an underrun raises an error. -/
theorem SendingTurn.error (k : SendingTurn e s t) (clean : s.dma.error = false) (err : t.dma.error = true) :
    e = .serializer ∧ s.starved = true ∧ s.cfg.transferErrors = .anytime ∧ t = s.raiseDmaError .underrun := by
  cases k with
  | same w _ _ => exact absurd (clean.symm.trans (w.kept.error.symm.trans err)) nofun
  | moves _ w => exact absurd (clean.symm.trans (w.error.symm.trans err)) nofun
  | completes _ _ ht =>
    subst ht
    exact absurd (clean.symm.trans err) nofun
  | underruns he starved anytime ht => exact ⟨he, starved, anytime, ht⟩
  | sends _ _ ht =>
    subst ht
    exact absurd (clean.symm.trans err) nofun

/-- In every state of the invariant, only an underrun raises an error (R275). -/
theorem State.Inv.turn_error (h : s.Inv) (hr : s.env.rstN = true) (ht : Machine.turn e s = .next t)
    (clean : s.dma.error = false) (err : t.dma.error = true) :
    e = .serializer ∧ s.starved = true ∧ s.cfg.transferErrors = .anytime ∧ t = s.raiseDmaError .underrun := by
  have kept {P : Prop} (k : t.dma.error = true → s.dma.error = true) : P := absurd (clean.symm.trans (k err)) nofun
  cases e with
  | host offset bytes op => exact kept ((hostAccess_sameWire ht).dma ▸ id)
  | platform address bytes op =>
    rcases platformAccess_cases ht with ⟨_, -, k⟩ | ⟨-, rfl⟩
    · exact kept ((hostAccess_sameWire k).dma ▸ id)
    · exact kept id
  | sequencer => exact kept (sequencerTurn_error ht)
  | scheduler => exact (schedulerTurn_sending h hr ht).error clean err
  | serializer => exact Host.Outcome.next.inj ht ▸ (tick_sending s).error clean (Host.Outcome.next.inj ht ▸ err)
  | clockManager | timer | resetLow | resetHigh | setProfileId v => exact kept (Host.Outcome.next.inj ht ▸ id)

/-- Settles O14: the checks of the fetch and of the move pass inside a chain, so an error is the serializer's. -/
theorem onlyUnderrunOccurs : Obligations.OnlyUnderrunOccurs := by
  unfold Obligations.OnlyUnderrunOccurs
  intro s t h ht clean err
  obtain ⟨es, n, hn, ⟨hr, k⟩ | ⟨-, k⟩⟩ := step_cases ht
  · have h' : State.Inv { s with env := { s.env with events := es, draws := n } } := hn ▸ h.nextEvent
    obtain ⟨he, starved, anytime, rfl⟩ := h'.turn_error hr k clean err
    have active : s.dma.active = true := (Bool.and_eq_true_iff.mp starved).2
    exact ⟨rfl, he, active, h.activeSubmitted active, anytime⟩
  · rcases turnInReset_cases k with rfl | ⟨-, rfl⟩ | ⟨v, -, rfl⟩
    · exact absurd (clean.symm.trans err) nofun
    · exact nomatch err
    · exact absurd (clean.symm.trans err) nofun

end Sys2Proof.Machine
end

section
/-! The chain builder: RENDER's build phase, and the chain it leaves (R250 to R254). -/

namespace Sys2Proof.Machine

open State

variable {s t : State}

theorem execRender_renderBuild (hp : s.seq.phase = .renderBuild) :
    execRender s = .next (s.buildPhase.goto .renderArm .work) := by
  simp only [execRender, hp]

theorem chainKept_iff : s.chainKept = true ↔ s.seq.chainValid = true ∧ s.lat.built = some (builtFor s.snap) := by
  simp [State.chainKept]

theorem buildChain_sameBytesBut (s : State) (m : Mode) (g : Geometry) :
    SameBytesBut s (s.buildChain m g) (fun r a => r = .cb ∧ a < 64) := by
  intro r a h
  cases r with
  | cb =>
    show (s.buildChain m g).ram.cb.read Memory.unspecified a = s.ram.cb.read Memory.unspecified a
    exact buildChain_read m g (Nat.le_of_not_lt fun k => h ⟨rfl, k⟩)
  | pixel n | gamma n | sym => simp only [State.byteAt, State.memory, buildChain_ram]

/-- Settles O45: the chain's words are the blocks' encodings, and the phase either keeps or builds it. -/
theorem buildPhase : Obligations.BuildPhase := by
  unfold Obligations.BuildPhase
  intro s hp b g ti bytes chain
  have data : tiWord (dataTi s.lat.mode) = ti := by
    dsimp only [ti]
    cases s.lat.mode <;> decide
  have tail : tiWord (tailTi s.lat.mode) = ti ||| 1#32 := by
    dsimp only [ti]
    cases s.lat.mode <;> decide
  have words : chainWords s.lat.mode g = chain := by
    simp only [chainWords, encode, dataBlock, tailBlock, data, tail]
    rfl
  refine ⟨words, fun valid built => ?_, fun stale => ?_⟩
  · have kept : s.buildPhase = s := if_pos (chainKept_iff.mpr ⟨valid, built⟩)
    exact (execRender_renderBuild hp).trans (by rw [kept]; rfl)
  · have rebuilt : s.buildPhase = s.buildChain s.lat.mode g := if_neg fun k => stale (chainKept_iff.mp k)
    refine ⟨_, execRender_renderBuild hp, ?_⟩
    rw [rebuilt]
    exact ⟨rfl, fun k w hk => buildChain_word _ _ (words ▸ hk), buildChain_sameBytesBut s _ _⟩

/-- At arming, RENDER runs in `ENCODING` and the chain is for the current snapshot (R321). -/
theorem State.Inv.renderArm_phase (h : s.Inv) (hp : s.seq.phase = .renderArm) :
    decodeCmd s.seq.cmd = .render ∧ s.seq.state = .encoding ∧ s.chainKept = true := by
  have phase := h.phase
  unfold State.PhaseOk at phase
  rw [hp] at phase
  exact ⟨phase.1, phase.2.1, phase.2.2.2⟩

/-- At arming the scheduler is stopped (R250). -/
theorem State.Inv.stopped_of_renderArm (h : s.Inv) (hp : s.seq.phase = .renderArm) : s.dma.active = false :=
  Bool.eq_false_iff.mpr fun k => nomatch (h.renderArm_phase hp).2.1.symm.trans (h.activeSubmitted k)

/-- At arming, CB RAM holds the chain for the current snapshot (R254). -/
theorem State.Inv.chainIn_of_renderArm (h : s.Inv) (hp : s.seq.phase = .renderArm) :
    s.lat.built = some (builtFor s.snap) ∧
      ChainIn s.ram.cb s.lat.mode (geometry s.lat.mode s.lat.freqL s.snap) := by
  obtain ⟨valid, built⟩ := chainKept_iff.mp (h.renderArm_phase hp).2.2
  obtain ⟨b, hb, stored, -⟩ := h.chain valid
  obtain rfl := Option.some.inj (built.symm.trans hb)
  refine ⟨built, ?_⟩
  unfold State.builtGeometry at stored
  rwa [geometry_builtFor h.white] at stored

/-- Settles O46: rebuilt or kept, the chain is the one the invariant says a valid chain is. -/
theorem chainIsCurrent : Obligations.ChainIsCurrent := by
  unfold Obligations.ChainIsCurrent
  intro s t h hr he hb hp ht
  obtain ⟨es, n, k⟩ := step_turn_cases hr ht
  rw [he] at k
  have inv : t.Inv := stepKeepsInvariant s t h ht
  have phase := h.phase
  unfold State.PhaseOk at phase
  rw [hp] at phase
  obtain ⟨hc, hs, -⟩ := phase
  generalize hu : ({ s with env := { s.env with events := es, draws := n } } : State) = u at k
  obtain ⟨hseq, hsnap⟩ : u.seq = s.seq ∧ u.snap = s.snap := hu ▸ ⟨rfl, rfl⟩
  have run : execRender u = .next t := by simpa [turn, sequencerTurn, hseq, hb, hc, exec] using k
  rw [execRender_renderBuild (hseq ▸ hp)] at run
  obtain rfl := Host.Outcome.next.inj run
  exact ⟨rfl, (buildPhase_keeps (s := u)).2.trans hsnap, inv.stopped_of_renderArm rfl,
    (inv.chainIn_of_renderArm rfl).2⟩

end Sys2Proof.Machine
end

section
/-! The scheduler's turn in every state: fetch, move, finish and completion (R260 to R276). -/

namespace Sys2Proof.Machine

open State

variable {s t : State} {es : List Event}

/-! ## Fetch -/

theorem schedulerTurn_fetch (ha : s.dma.active = true) (hl : s.dma.loaded = false) : schedulerTurn s = fetchTurn s := by
  simp [schedulerTurn, ha, hl]

theorem schedulerTurn_loaded (ha : s.dma.active = true) (hl : s.dma.loaded = true) :
    schedulerTurn s = exec (.cb s.loadedBlock) s := by
  simp [schedulerTurn, ha, hl]

theorem cbAddrOk_iff {a : Word} :
    cbAddrOk a = true ↔ a.toNat % 32 = 0 ∧ 0x00100000 ≤ a.toNat ∧ a.toNat < 0x00100100 := by
  have base : cbBase.toNat = 0x00100000 := by decide
  simp [cbAddrOk, base, cbSlots]

/-- A fetch at an address that is none of a control block's (R265). -/
theorem fetchTurn_badAddress (hc : cbAddrOk s.dma.conblkAd = false) :
    fetchTurn s = .next (s.fetched.raiseDmaError .cbAddr) := by
  simp [fetchTurn, State.fetch, hc]

/-- A fetch at slot `j` reads the slot's eight words (R264). -/
theorem fetch_slot {j : Nat} {w0 w1 w2 w3 w4 w5 w6 w7 : Word} (hj : j < 8)
    (hc : s.dma.conblkAd.toNat = 0x00100000 + 32 * j)
    (h0 : s.ram.cb.word? (8 * j) = some w0) (h1 : s.ram.cb.word? (8 * j + 1) = some w1)
    (h2 : s.ram.cb.word? (8 * j + 2) = some w2) (h3 : s.ram.cb.word? (8 * j + 3) = some w3)
    (h4 : s.ram.cb.word? (8 * j + 4) = some w4) (h5 : s.ram.cb.word? (8 * j + 5) = some w5)
    (h6 : s.ram.cb.word? (8 * j + 6) = some w6) (h7 : s.ram.cb.word? (8 * j + 7) = some w7) :
    cbAddrOk s.dma.conblkAd = true ∧ s.fetchBlock = decodeBlock w0 w1 w2 w3 w4 w5 w6 w7 := by
  have index : (s.dma.conblkAd - cbBase).toNat / 4 = 8 * j := by
    have base : cbBase.toNat = 0x00100000 := by decide
    rw [BitVec.toNat_sub_of_le (BitVec.le_def.mpr (by omega))]
    omega
  have word (n : Nat) {w : Word} (hn : s.ram.cb.word? (8 * j + n) = some w) : s.blockWord n = w := by
    rw [State.blockWord, index]
    exact wordOr_of_some s n _ hn
  refine ⟨cbAddrOk_iff.mpr (by omega), ?_⟩
  rw [State.fetchBlock, word 0 h0, word 1 h1, word 2 h2, word 3 h3, word 4 h4, word 5 h5, word 6 h6, word 7 h7]

/-- A fetch of words that decode runs what they decode to (R264). -/
theorem fetchTurn_ok {i : Instr} (hc : cbAddrOk s.dma.conblkAd = true) (hf : s.fetchBlock = .ok i) :
    fetchTurn s = exec i s.fetched := by
  simp [fetchTurn, State.fetch, hc, hf]

/-- A fetch of words with a reserved `TI` bit (R163). -/
theorem fetchTurn_reserved (hc : cbAddrOk s.dma.conblkAd = true) (hf : s.fetchBlock = .error .reservedTiBits) :
    fetchTurn s = .next (s.fetched.raiseDmaError .cbFormat) := by
  simp [fetchTurn, State.fetch, hc, hf]

/-- The scheduler's listed turn with no block loaded is a fetch. -/
theorem step_fetch (hr : s.env.rstN = true) (he : s.env.events = .scheduler :: es) (ha : s.dma.active = true)
    (hl : s.dma.loaded = false) : step s = fetchTurn { s with env := { s.env with events := es } } :=
  (step_of_event hr he).trans (schedulerTurn_fetch ha hl)

/-- Settles O11: the turn fetches the slot's words, or runs the loaded block. -/
theorem stepRunsControlBlock : Obligations.StepRunsControlBlock := by
  unfold Obligations.StepRunsControlBlock
  intro s es hr he ha
  refine ⟨fun j w0 w1 w2 w3 w4 w5 w6 w7 i hl hj hc h0 h1 h2 h3 h4 h5 h6 h7 hi => ?_, fun hl =>
    (step_of_event hr he).trans (schedulerTurn_loaded ha hl)⟩
  have address : s.dma.conblkAd.toNat = 0x00100000 + 32 * j := by
    rw [hc, BitVec.toNat_ofNat]
    omega
  obtain ⟨ok, block⟩ := fetch_slot (s := { s with env := { s.env with events := es } }) hj address
    h0 h1 h2 h3 h4 h5 h6 h7
  exact (step_fetch hr he ha hl).trans (fetchTurn_ok ok (block.trans hi))

/-! ## Load -/

/-- With none loaded, a block's step is its load (R264). -/
theorem exec_cb_load (b : CtrlBlock) (hl : s.dma.loaded = false) : exec (.cb b) s = .next (s.loadBlock b) := by
  simp [exec, execCb, hl]

theorem loadBlock_illFormed {b : CtrlBlock} (wf : b.wellFormed = false) :
    s.loadBlock b = s.raiseDmaError .cbFormat := by
  simp [State.loadBlock, wf]

theorem loadBlock_misaligned {b : CtrlBlock} (wf : b.wellFormed = true) (len : b.txfrLen.toNat % 4 ≠ 0) :
    s.loadBlock b = s.raiseDmaError .lenAlign := by
  have misaligned : b.txfrLen.field 0 2 ≠ 0#2 := fun k => len (by
    simpa [Word.field, BitVec.extractLsb'_toNat] using congrArg BitVec.toNat k)
  simp [State.loadBlock, wf, misaligned]

/-- A fetch of words without a reserved `TI` bit loads their block (R264). -/
theorem fetchTurn_load {w0 w1 w2 w3 w4 w5 w6 w7 : Word} (hl : s.dma.loaded = false)
    (ok : cbAddrOk s.dma.conblkAd = true) (hf : s.fetchBlock = decodeBlock w0 w1 w2 w3 w4 w5 w6 w7)
    (clear : w0 &&& tiReservedMask = 0#32) :
    fetchTurn s = .next (s.fetched.loadBlock (blockOfWords w0 w1 w2 w3 w4 w5 w6 w7)) := by
  rw [fetchTurn_ok ok (hf.trans (decodeBlock_ok_iff.mpr ⟨clear, rfl⟩))]
  exact exec_cb_load _ hl

/-- Settles O52: each check with its equation of the fetch or of the load. -/
theorem blockFetch : Obligations.BlockFetch := by
  unfold Obligations.BlockFetch
  intro s hl err load
  refine ⟨fun b wf len => (exec_cb_load b hl).trans (congrArg _ (loadBlock_legal wf len)), ?_⟩
  intro es hr he ha u a
  have run := step_fetch hr he ha hl
  refine ⟨fun bad => ?_, ?_⟩
  · exact run.trans (fetchTurn_badAddress (Bool.eq_false_iff.mpr fun k => bad (cbAddrOk_iff.mp k)))
  · intro j w0 w1 w2 w3 w4 w5 w6 w7 hj hc h0 h1 h2 h3 h4 h5 h6 h7 illFormed
    obtain ⟨ok, block⟩ := fetch_slot (s := { s with env := { s.env with events := es } }) hj hc
      h0 h1 h2 h3 h4 h5 h6 h7
    have legal : (blockOfWords w0 w1 w2 w3 w4 w5 w6 w7).wellFormed = true ↔
        (w0.field 16 5 = 0#5 ∨ w0.field 16 5 = 2#5 ∨ w0.field 16 5 = 5#5 ∨ w0.field 16 5 = 6#5) ∧
          w3.field 30 2 = 0#2 ∧ w4 = 0#32 := CtrlBlock.wellFormed_iff
    have formed (good : ¬ illFormed) : w0 &&& tiReservedMask = 0#32 ∧
        (blockOfWords w0 w1 w2 w3 w4 w5 w6 w7).wellFormed = true :=
      ⟨of_not_not fun k => good (.inl k), legal.mpr ⟨of_not_not fun k => good (.inr (.inl k)),
        of_not_not fun k => good (.inr (.inr (.inl k))), of_not_not fun k => good (.inr (.inr (.inr k)))⟩⟩
    have loads (clear : w0 &&& tiReservedMask = 0#32) :
        step s = .next (u.loadBlock (blockOfWords w0 w1 w2 w3 w4 w5 w6 w7)) :=
      run.trans (fetchTurn_load (s := { s with env := { s.env with events := es } }) hl ok block clear)
    refine ⟨fun bad => ?_, fun good len => ?_, fun good len => ?_⟩
    · by_cases clear : w0 &&& tiReservedMask = 0#32
      · have ill : (blockOfWords w0 w1 w2 w3 w4 w5 w6 w7).wellFormed = false := by
          refine Bool.eq_false_iff.mpr fun k => ?_
          obtain ⟨permap, length, stride⟩ := legal.mp k
          rcases bad with k | k | k | k
          exacts [k clear, k permap, k length, k stride]
        exact (loads clear).trans (congrArg _ (loadBlock_illFormed ill))
      · exact run.trans (fetchTurn_reserved ok (block.trans (if_neg clear)))
    · obtain ⟨clear, wf⟩ := formed good
      exact (loads clear).trans (congrArg _ (loadBlock_misaligned wf len))
    · obtain ⟨clear, wf⟩ := formed good
      refine (loads clear).trans (congrArg _ ((loadBlock_legal wf len).trans ?_))
      simp only [Dma.load, blockOfWords, tiWord_tiFields w0 clear, load]

end Sys2Proof.Machine
end

section
/-! A loaded block's step, the completion, and the serializer's tick, in every state (R269 to R283). -/

namespace Sys2Proof.Machine

open State

variable {s t : State} {es : List Event}

/-! ## A loaded block's step -/

/-- Once one is loaded, a block's step is that of the loaded-block registers (R260). -/
theorem exec_cb_loaded (b : CtrlBlock) (hl : s.dma.loaded = true) : exec (.cb b) s = .next s.runLoaded := by
  simp [exec, execCb, hl]

theorem runLoaded_finish (hlen : s.dma.txfrLen = 0#32) : s.runLoaded = s.finishBlock := if_pos hlen

theorem runLoaded_move (hlen : s.dma.txfrLen ≠ 0#32) (ready : s.moveReady = true) : s.runLoaded = s.moveWord :=
  (if_neg hlen).trans (if_pos ready)

theorem runLoaded_hold (hlen : s.dma.txfrLen ≠ 0#32) (held : s.moveReady ≠ true) : s.runLoaded = s :=
  (if_neg hlen).trans (if_neg held)

theorem moveReady_iff (hl : s.dma.loaded = true) : s.moveReady = true ↔ s.dma.ti.getLsbD 6 = false ∨
    (s.dma.ti.field 16 5 = 0#5 ∨ s.dma.ti.field 16 5 = s.lat.mode.permap ∧ s.ser.fifo.length < s.cfg.fifoDepth) := by
  rw [State.moveReady, Bool.or_eq_true, dreq_iff]
  simp [hl, tiFields]

theorem srcOk_iff {c : Config} {a : Word} : srcOk c a = true ↔ a.toNat % 4 = 0 ∧ a.toNat < 4 * c.symWords :=
  decide_eq_true_iff

theorem fifoData_iff {a : Word} : a = fifoData ↔ a.toNat = 0x00200000 :=
  ⟨fun h => h ▸ rfl, fun h => BitVec.eq_of_toNat_eq h⟩

theorem destOk_iff {c : Config} {a : Word} :
    destOk c a = true ↔ a.toNat % 4 = 0 ∧ (a.toNat < 4 * c.symWords ∨ a.toNat = 0x00200000) := by
  rw [← fifoData_iff]
  exact decide_eq_true_iff

/-- A write of a word of symbol RAM leaves every byte outside the word alone (R271). -/
theorem setSym_sameBytesBut {d : Nat} (hd : d % 4 = 0) (v : Word)
    (ht : t.ram = { s.ram with sym := s.ram.sym.setWord (d / 4) v }) :
    SameBytesBut s t (fun r a => r = .sym ∧ d ≤ a ∧ a < d + 4) := by
  intro r a h
  unfold State.byteAt State.memory
  rw [ht]
  cases r with
  | sym =>
    refine Memory.read_setWord_other ?_ _ v
    by_contra k
    exact h ⟨rfl, by omega, by omega⟩
  | _ => rfl

/-- Settles O53: the hold by DREQ, then each case of the move. -/
theorem wordMove : Obligations.WordMove := by
  unfold Obligations.WordMove
  intro s b hl hlen room err p used dreq src dst srcOk' destOk' full moved drawn
  have hused : used = s.lat.mode.permap := by
    dsimp only [used]
    cases s.lat.mode <;> rfl
  have ready : s.moveReady = true ↔ s.dma.ti.getLsbD 6 = false ∨ dreq := by
    rw [moveReady_iff hl, ← hused]
  refine ⟨fun paced wait => ?_, fun go => ?_⟩
  · have held : s.moveReady ≠ true := fun k => by
      rcases ready.mp k with k | k
      · exact nomatch k.symm.trans paced
      · exact wait k
    exact (exec_cb_loaded b hl).trans (congrArg _ (runLoaded_hold hlen held))
  · have run : exec (.cb b) s = .next s.moveWord :=
      (exec_cb_loaded b hl).trans (congrArg _ (runLoaded_move hlen (ready.mpr go)))
    have src_iff : srcOk s.cfg s.dma.sourceAd = true ↔ srcOk' := srcOk_iff
    have dest_iff : destOk s.cfg s.dma.destAd = true ↔ destOk' := destOk_iff
    have fifo_iff : s.dma.destAd = fifoData ↔ dst = 0x00200000 := fifoData_iff
    rw [run]
    rcases moveWord_cases (s := s) with ⟨hs, k⟩ | ⟨hs, hd, k⟩ | ⟨hs, hd, hf, hfull, k⟩ | ⟨hs, hd, hf, hroom, k⟩ |
      ⟨hs, hd, hf, k⟩ <;> rw [k]
    · have no : ¬ srcOk' := fun x => nomatch hs.symm.trans (src_iff.mpr x)
      exact ⟨fun _ => rfl, fun x => absurd x no, fun x => absurd x no, fun x => absurd x no⟩
    · have yes := src_iff.mp hs
      have no : ¬ destOk' := fun x => nomatch hd.symm.trans (dest_iff.mpr x)
      exact ⟨fun x => absurd yes x, fun _ _ => rfl, fun _ x => absurd x no, fun _ x => absurd x no⟩
    · have yes := src_iff.mp hs
      have yes' := dest_iff.mp hd
      have isFull : full := ⟨fifo_iff.mp hf, Nat.le_antisymm room hfull⟩
      exact ⟨fun x => absurd yes x, fun _ x => absurd yes' x, fun _ _ _ => rfl, fun _ _ x => absurd isFull x⟩
    · have yes := src_iff.mp hs
      have yes' := dest_iff.mp hd
      have notFull : ¬ full := fun x => hroom.ne x.2
      exact ⟨fun x => absurd yes x, fun _ x => absurd yes' x, fun _ _ x => absurd x notFull, fun _ _ _ =>
        ⟨_, fun w hw => wordOr_of_some s 0 w hw, fun _ => rfl, fun x => absurd (fifo_iff.mp hf) x⟩⟩
    · have yes := src_iff.mp hs
      have yes' := dest_iff.mp hd
      have elsewhere : dst ≠ 0x00200000 := fun x => hf (fifo_iff.mpr x)
      exact ⟨fun x => absurd yes x, fun _ x => absurd yes' x, fun _ _ x => absurd x.1 elsewhere, fun _ _ _ =>
        ⟨_, fun w hw => wordOr_of_some s 0 w hw, fun x => absurd x elsewhere, fun _ => ⟨_, rfl, rfl,
          Memory.word?_setWord_same _ _ _, setSym_sameBytesBut yes'.1 _ rfl⟩⟩⟩

/-! ## Finish and completion -/

theorem completionReady_iff : s.completionReady = true ↔ s.seq.state = .submitted ∧ s.dma.active = false ∧
    s.dma.ended = true ∧ s.dma.int = true ∧ s.ser.fifo = [] ∧ ∀ l, (s.ser.lane.get l).left = 0 := by
  have lanes : (∀ l, (s.ser.lane.get l).left = 0) ↔ s.ser.lane.ch0.left = 0 ∧ s.ser.lane.ch1.left = 0 :=
    ⟨fun h => ⟨h .ch0, h .ch1⟩, fun h l => by cases l; exacts [h.1, h.2]⟩
  rw [lanes]
  simp [State.completionReady, and_assoc]

theorem schedulerTurn_stopped (ha : s.dma.active = false) : schedulerTurn s = .next s.completionStep := by
  simp [schedulerTurn, ha]

/-- Settles O54: the two ends of a finish, and the completion's condition. -/
theorem blockFinishAndCompletion : Obligations.BlockFinishAndCompletion := by
  unfold Obligations.BlockFinishAndCompletion
  refine ⟨?_, ?_⟩
  · intro s b hl hlen int
    have run := (exec_cb_loaded b hl).trans (congrArg _ (runLoaded_finish hlen))
    rw [run]
    rcases finishBlock_cases (s := s) with ⟨last, k⟩ | ⟨more, k⟩ <;> rw [k]
    · exact ⟨fun _ => rfl, fun x => absurd last x⟩
    · exact ⟨fun x => absurd x more, fun _ => rfl⟩
  · intro s es hr he ha done
    have run : step s = .next (State.completionStep { s with env := { s.env with events := es } }) :=
      (step_of_event hr he).trans (schedulerTurn_stopped ha)
    have ready : State.completionReady { s with env := { s.env with events := es } } = true ↔ done :=
      completionReady_iff.trans ⟨fun ⟨a, _, c⟩ => ⟨a, c⟩, fun ⟨a, c⟩ => ⟨a, ha, c⟩⟩
    exact ⟨fun yes => run.trans (congrArg _ (if_pos (ready.mpr yes))),
      fun no => run.trans (congrArg _ (if_neg fun k => no (ready.mp k)))⟩

/-! ## The tick -/

theorem ticks_iff : s.ticks = true ↔ s.ser.enabled = true ∧ s.clk.enab = true ∧ s.env.busy = true := by
  simp [State.ticks, State.clockRuns]

theorem starved_iff : s.starved = true ↔
    s.ser.lane.ch0.left = 0 ∧ s.ser.fifo.length < s.lat.lanes ∧ s.dma.active = true := by
  simp [State.starved, and_assoc]

theorem tick_stopped (no : s.ticks = false) : s.tick = s := by simp [State.tick, no]

theorem tick_sends (ticks : s.ticks = true) (fed : s.starved = false) : s.tick = s.shiftStep := by
  simp [State.tick, ticks, fed]

theorem tick_starved (ticks : s.ticks = true) (starved : s.starved = true) :
    (s.cfg.transferErrors = .never → s.tick = s) ∧
      (s.cfg.transferErrors = .anytime → s.tick = s.raiseDmaError .underrun) := by
  constructor <;> intro errors <;> simp [State.tick, ticks, starved, errors]

/-- A shift by the sub-bits that are left (R282). -/
theorem Lane.shift_eq (l : Lane) (idle : Bool) : l.shift idle =
    match l.left with
    | 0 => { l with out := l.oe && idle }
    | k + 1 => { l with shreg := l.shreg <<< 1, left := k, out := l.oe && l.shreg.getLsbD 31 } := by
  obtain ⟨shreg, left, out, oe⟩ := l
  cases left <;> rfl

/-- Settles O56: the tick's cases, with what the lanes hold when their sub-bits are sent. -/
theorem tickShifts : Obligations.TickShifts := by
  unfold Obligations.TickShifts
  intro s es hr he u runs empty enough shift sends underrun
  have run : step s = .next u.tick := step_of_event hr he
  have ticks : u.ticks = true ↔ runs := ticks_iff
  have starved : u.starved = true ↔ empty ∧ s.ser.fifo.length < s.lat.lanes ∧ s.dma.active = true := starved_iff
  have shift_eq (l : Lane) (idle : Bool) : l.shift idle = shift l idle := Lane.shift_eq l idle
  have sent (go : runs) (fed : ¬ (empty ∧ s.ser.fifo.length < s.lat.lanes ∧ s.dma.active = true)) {fifo : List Word}
      {lane : Chan → Lane} (hf : u.afterLoad.ser.fifo = fifo)
      (hlane : ∀ l : Chan, l.toNat < s.lat.lanes → u.afterLoad.ser.lane.get l = lane l) : sends fifo lane := by
    refine ⟨u.shiftStep, ?_, ?_, fun l => ⟨fun hl => ?_, fun hl => shiftStep_get_unused hl⟩⟩
    · rw [run, tick_sends (ticks.mpr go) (Bool.eq_false_iff.mpr fun k => fed (starved.mp k))]
    · exact hf ▸ shiftStep_frame u
    · rw [← hlane l hl, ← shift_eq]
      exact shiftStep_get (s := u) hl
  refine ⟨fun no => ?_, fun go e few ha => ?_, fun go e few hi => ?_, fun go e full => ?_, fun go ne => ?_⟩
  · rw [run, tick_stopped (Bool.eq_false_iff.mpr fun k => no (ticks.mp k))]
  · obtain ⟨never, anytime⟩ := tick_starved (ticks.mpr go) (starved.mpr ⟨e, Nat.lt_of_not_le few, ha⟩)
    exact ⟨fun k => run.trans (congrArg _ (never k)), fun k => run.trans (congrArg _ (anytime k))⟩
  · have same : u.afterLoad = u := afterLoad_of_not_ready fun k => few k.2
    exact sent go (fun k => nomatch hi.symm.trans k.2.2) (by rw [same]) fun l _ => by rw [same]
  · have load : u.afterLoad.ser = s.ser.loadLanes s.lat.lanes := congrArg State.ser (afterLoad_of_ready ⟨e, full⟩)
    exact sent go (fun k => Nat.not_le.mpr k.2.1 full) (by rw [load]) fun l hl => by
      rw [load, loadLanes_get _ hl]
  · have same : u.afterLoad = u := afterLoad_of_not_ready fun k => ne k.1
    exact sent go (fun k => ne k.1) (by rw [same]) fun l _ => by rw [same]

end Sys2Proof.Machine
end

section
/-! What the wire carries over a run, from arming on (R287). -/

namespace Sys2Proof.Machine

open State

variable {s t : State} {e : Event} {g : Geometry} {frame : List Word} {r : Nat → State} {ev : Nat → Event}

/-! ## Runs of sending turns -/

/-- The invariant along a run. -/
theorem IsRun.inv (R : IsRun r ev) {n m : Nat} (h : (r n).Inv) (hm : n ≤ m) : (r m).Inv := by
  induction m, hm using Nat.le_induction with
  | base => exact h
  | succ m _ ih => exact stepKeepsInvariant _ _ (ih.given (ev m)) (R m)

/-- A step of a run between arming and the next clear step is a sending turn. -/
theorem IsRun.sendingTurn (R : IsRun r ev) {m : Nat} (h : (r m).Inv) (hs : (r m).Sending)
    (go : GoesOn (r m) (r (m + 1))) : SendingTurn (ev m) (r m) (r (m + 1)) :=
  turn_sending h hs ((step_given hs.rstN).symm.trans (R m)) go

/-- The parameters, the latched configuration, the snapshot and the output enables between arming and the next clear
step. -/
structure SameSetup (s t : State) : Prop where
  cfg  : t.cfg = s.cfg
  lat  : t.lat = s.lat
  snap : t.snap = s.snap
  oe   : ∀ l : Chan, (t.ser.lane.get l).oe = (s.ser.lane.get l).oe

theorem SameSetup.trans {u : State} (k : SameSetup s t) (k' : SameSetup t u) : SameSetup s u :=
  ⟨k'.cfg.trans k.cfg, k'.lat.trans k.lat, k'.snap.trans k.snap, fun l => (k'.oe l).trans (k.oe l)⟩

@[simp] theorem Lane.shift_oe (l : Lane) (idle : Bool) : (l.shift idle).oe = l.oe := by
  unfold Lane.shift
  split <;> rfl

theorem shiftStep_oe (s : State) (l : Chan) : (s.shiftStep.ser.lane.get l).oe = (s.ser.lane.get l).oe := by
  by_cases hl : l.toNat < s.lat.lanes
  · rw [shiftStep_get hl, Lane.shift_oe, afterLoad_oe]
  · rw [shiftStep_get_unused (Nat.le_of_not_lt hl)]

theorem SendingTurn.sameSetup (k : SendingTurn e s t) : SameSetup s t := by
  cases k with
  | same w _ _ => exact ⟨w.cfg, w.lat, w.snap, fun l => by rw [w.ser]⟩
  | moves _ w => exact ⟨w.cfg, w.lat, w.snap, fun l => by rw [w.lane]⟩
  | completes _ _ ht =>
    subst ht
    exact ⟨rfl, rfl, rfl, fun _ => rfl⟩
  | underruns _ _ _ ht =>
    subst ht
    exact ⟨rfl, rfl, rfl, fun l => by cases l <;> rfl⟩
  | sends _ _ ht =>
    subst ht
    exact ⟨rfl, rfl, rfl, shiftStep_oe s⟩

/-! ## The lane's stream -/

/-- The sub-bits of a lane's stream in a frame of geometry `g` (R220). -/
def laneStream (sn : Snap) (groups : List Word) (g : Geometry) : List Bool :=
  (List.range (32 * (g.d + g.t))).map (laneSubBit sn groups)

/-- A lane's data fits its words (R212, R219). -/
theorem subbits_le (m : Mode) (freq : Word) (sn : Pair Snap) {l : Chan} (hl : l.toNat < m.lanes) :
    (sn.get l).subbits ≤ 32 * ((geometry m freq sn).d + (geometry m freq sn).t) := by
  have fits : (sn.get l).subbits ≤ 32 * (sn.get l).words := by
    unfold Snap.words ceilDiv
    omega
  have words : (sn.get l).words ≤ (geometry m freq sn).d := by
    rw [geometry_eq]
    dsimp only
    cases l with
    | ch0 => split; exacts [le_max_left _ _, le_refl _]
    | ch1 => rw [if_pos (m.one_lt_lanes.mp hl)]; exact le_max_right _ _
  omega

/-- The next sub-bit of a stream of which `k` have been sent, the idle level past its end (R220, R287). -/
theorem head_drop_laneStream (m : Mode) (freq : Word) (sn : Pair Snap) {l : Chan} (hl : l.toNat < m.lanes)
    (groups : List Word) (k : Nat) :
    ((laneStream (sn.get l) groups (geometry m freq sn)).drop k).head?.getD (sn.get l).invert =
      laneSubBit (sn.get l) groups k := by
  have fits := subbits_le m freq sn hl
  rw [List.head?_drop, laneStream, List.getElem?_map]
  by_cases hk : k < 32 * ((geometry m freq sn).d + (geometry m freq sn).t)
  · rw [List.getElem?_range hk]
    rfl
  · rw [List.getElem?_eq_none (by simpa using hk), laneSubBit_idle (by omega)]
    rfl

/-! ## Arming -/

theorem execRender_renderArm (hp : s.seq.phase = .renderArm) :
    execRender s = .next (s.renderArm.complete .success) := by
  simp only [execRender, hp]

/-- The sequencer's turn at RENDER's last phase arms the chain (R322). -/
theorem sequencerTurn_renderArm (h : s.Inv) (hb : s.seq.cmdBusy = true) (hp : s.seq.phase = .renderArm) :
    sequencerTurn s = .next (s.renderArm.complete .success) := by
  rw [sequencerTurn, if_pos hb, (h.renderArm_phase hp).1]
  exact execRender_renderArm hp

/-- Arming puts the frame in symbol RAM in flight, all of it ahead on every lane (R262, R287). -/
theorem State.Inv.inFlight_of_arm (h : s.Inv) (hp : s.seq.phase = .renderArm) {groups : Pair (List Word)}
    (hg : g = geometry s.lat.mode s.lat.freqL s.snap)
    (stored : ∀ q w, (encodeFrame g s.snap groups)[q]? = some w → s.ram.sym.word? q = some w) :
    (s.renderArm.complete .success).InFlight g (encodeFrame g s.snap groups) ∧
      ∀ l : Chan, l.toNat < s.lat.mode.lanes →
        (s.renderArm.complete .success).laneAhead g (encodeFrame g s.snap groups) l =
          laneStream (s.snap.get l) (groups.get l) g := by
  obtain ⟨fifo, left0, left1⟩ := h.drained (by rw [(h.renderArm_phase hp).2.1]; nofun)
  have words : (s.renderArm.complete .success).ser.fifo ++
      (encodeFrame g s.snap groups).drop ((s.renderArm.complete .success).dma.nextSource g) =
        encodeFrame g s.snap groups := congrArg (· ++ _) fifo
  constructor
  · refine ⟨⟨builtFor s.snap, (h.chainIn_of_renderArm hp).1, ?_⟩, length_encodeFrame _ _ _, stored, ?_⟩
    · rw [hg]
      exact geometry_builtFor h.white _ _
    · rw [words, length_encodeFrame]
      exact Nat.mul_mod_left _ _
  · intro l hl
    have empty : ((s.renderArm.complete .success).ser.lane.get l).pending = [] :=
      Lane.pending_eq_nil.mpr (by cases l; exacts [left0, left1])
    rw [laneAhead_eq, empty, words, List.nil_append, hg]
    exact (congrArg (List.flatMap subBitsOf) (laneWords_encodeFrame _ _ _ _ l hl)).trans (flatMap_laneWord _ _ _)

/-! ## Counting ticks -/

/-- In a rising list, element `i` has `i` elements below it. -/
theorem countP_lt_getElem {ticks : List Nat} (rising : ticks.Pairwise (· < ·)) {i m : Nat} (h : ticks[i]? = some m) :
    ticks.countP (· < m) = i := by
  induction ticks generalizing i with
  | nil => simp at h
  | cons a ts ih =>
    obtain ⟨above, rest⟩ := List.pairwise_cons.mp rising
    cases i with
    | zero =>
      obtain rfl : a = m := by simpa using h
      rw [List.countP_eq_zero]
      intro x hx
      rcases List.mem_cons.mp hx with rfl | hx
      · simp
      · simpa using (above x hx).le
    | succ i =>
      have hi : ts[i]? = some m := by simpa using h
      have below : a < m := above m (List.mem_of_getElem? hi)
      rw [List.countP_cons_of_pos (by simpa using below), ih rest hi]

/-- One more below the next bound, where the bound is in the list. -/
theorem countP_lt_succ {ticks : List Nat} (rising : ticks.Pairwise (· < ·)) (k : Nat) :
    ticks.countP (· < k + 1) = ticks.countP (· < k) + if k ∈ ticks then 1 else 0 := by
  rw [← List.Nodup.count (rising.imp Nat.ne_of_lt)]
  clear rising
  induction ticks with
  | nil => rfl
  | cons a ts ih =>
    simp only [List.countP_cons, List.count_cons, ih, decide_eq_true_iff, beq_iff_eq]
    split_ifs <;> omega

/-! ## The run -/

/-- In state `t` of a run armed in `s`, the frame is in flight and `k` sub-bits of each lane's stream have been sent. -/
structure Sent (s : State) (groups : Pair (List Word)) (g : Geometry) (frame : List Word) (k : Nat) (t : State) :
    Prop where
  setup  : SameSetup s t
  flight : t.InFlight g frame
  ahead  : ∀ l : Chan, l.toNat < s.lat.lanes →
    t.laneAhead g frame l = (laneStream (s.snap.get l) (groups.get l) g).drop k

/-- A tick sends the next sub-bit of each lane's stream; no other turn sends one (R281, R282). -/
theorem Sent.turn {u : State} {groups : Pair (List Word)} {k : Nat} (c : Sent s groups g frame k t)
    (turn : SendingTurn e t u) (h : t.Inv) (ok : u.dma.error = false) :
    (e = .serializer ∧ t.Sends → Sent s groups g frame (k + 1) u ∧ ∀ l : Chan, l.toNat < s.lat.lanes →
      (u.ser.lane.get l).out = ((s.ser.lane.get l).oe &&
        ((laneStream (s.snap.get l) (groups.get l) g).drop k).head?.getD (s.snap.get l).invert)) ∧
    (¬ (e = .serializer ∧ t.Sends) → Sent s groups g frame k u) := by
  obtain ⟨setup, flight, ahead⟩ := c
  obtain ⟨flight', wire⟩ := turn.carriesFrame h flight ok
  rw [setup.lat] at wire
  have setup' := setup.trans turn.sameSetup
  refine ⟨fun tick => ⟨⟨setup', flight', fun l hl => ?_⟩, fun l hl => ?_⟩, fun no => ⟨setup', flight', fun l hl => ?_⟩⟩
  · rw [((wire l hl).1 tick).1, ahead l hl, List.tail_drop]
  · rw [((wire l hl).1 tick).2, ahead l hl, setup.oe, setup.snap]
  · rw [((wire l hl).2 no).1, ahead l hl]

/-- Settles O58: arming puts the stream ahead on each lane, and each turn of the run sends its next sub-bit or none. -/
theorem wireCarriesFrame : Obligations.WireCarriesFrame := by
  unfold Obligations.WireCarriesFrame
  intro r ev groups R s g h hr he hb hp stored n good ticks rising mem l i m hl hm
  have lanes : s.lat.lanes = s.lat.mode.lanes := h.lanes (by rw [(h.renderArm_phase hp).2.1]; nofun)
  have armed : r 1 = s.renderArm.complete .success := by
    have k := (step_given (e := ev 0) hr).symm.trans (R 0)
    rw [he] at k
    exact Host.Outcome.next.inj (k.symm.trans (sequencerTurn_renderArm h hb hp))
  obtain ⟨flight, ahead⟩ := h.inFlight_of_arm hp rfl stored
  have turn (k : Nat) (h1 : 1 ≤ k) (hk : k < n) : SendingTurn (ev k) (r k) (r (k + 1)) := by
    obtain ⟨rst, -, calm, state⟩ := good k h1 hk.le
    obtain ⟨rst', -, calm', state'⟩ := good (k + 1) (by omega) hk
    refine R.sendingTurn (R.inv h (Nat.zero_le k)) ⟨rst, state, calm⟩ ⟨rst', calm', fun _ x => ?_⟩
    rcases state' with y | y <;> exact nomatch x.symm.trans y
  have isTick {k : Nat} (h1 : 1 ≤ k) (hk : k < n) : k ∈ ticks ↔ ev k = .serializer ∧ (r k).Sends :=
    (mem k).trans ⟨fun x => x.2.2, fun x => ⟨h1, hk, x⟩⟩
  have sent (k : Nat) (h1 : 1 ≤ k) (hk : k ≤ n) :
      Sent s groups g (encodeFrame g s.snap groups) (ticks.countP (· < k)) (r k) := by
    induction k, h1 using Nat.le_induction with
    | base =>
      have zero : ticks.countP (· < 1) = 0 := by
        rw [List.countP_eq_zero]
        intro x hx
        have past := ((mem x).mp hx).1
        rw [decide_eq_true_iff]
        omega
      rw [armed, zero]
      exact ⟨⟨rfl, rfl, rfl, fun _ => rfl⟩, flight, fun l hl => ahead l (lanes ▸ hl)⟩
    | succ k h1 ih =>
      obtain ⟨sends, keeps⟩ := (ih (by omega)).turn (turn k h1 hk) (R.inv h (Nat.zero_le k))
        (good (k + 1) (by omega) hk).2.1
      rw [countP_lt_succ rising]
      split
      next tick => exact (sends ((isTick h1 hk).mp tick)).1
      next no => exact keeps fun x => no ((isTick h1 hk).mpr x)
  obtain ⟨h1, hmn, tick⟩ := (mem m).mp (List.mem_of_getElem? hm)
  have now := sent m h1 hmn.le
  rw [countP_lt_getElem rising hm] at now
  have out := ((now.turn (turn m h1 hmn) (R.inv h (Nat.zero_le m)) (good (m + 1) (by omega) hmn).2.1).1 tick).2 l hl
  rw [out, head_drop_laneStream _ _ _ (lanes ▸ hl)]

end Sys2Proof.Machine
end

section
/-! A transfer comes to its end: a fair scheduler completes one that can complete, and in a fair run every step of the
chain and every sub-bit takes its turn (R274, R276, R283, R418). -/

namespace Sys2Proof.Machine

open State

variable {s t : State} {e : Event} {g : Geometry} {frame : List Word} {r : Nat → State} {ev : Nat → Event}

/-! ## Fairness of the scheduler -/

/-- In a situation in which the scheduler has an enabled step and that only the scheduler ends, its turn comes. -/
theorem SchedulerFair.comes (F : SchedulerFair r ev) (P : State → Prop) {a : Nat} (hP : P (r a))
    (keeps : ∀ m, a ≤ m → P (r m) → ev m ≠ .scheduler → P (r (m + 1)))
    (enabled : ∀ m, a ≤ m → P (r m) → (r m).schedulerEnabled = true) :
    ∃ m, a ≤ m ∧ ev m = .scheduler ∧ ∀ k, a ≤ k → k ≤ m → P (r k) := by
  classical
  have before (m : Nat) (hm : a ≤ m) (no : ∀ k, a ≤ k → k < m → ev k ≠ .scheduler) : P (r m) := by
    induction m, hm using Nat.le_induction with
    | base => exact hP
    | succ m hm ih => exact keeps m hm (ih fun k hk hkm => no k hk (by omega)) (no m hm (by omega))
  have comes : ∃ m, a ≤ m ∧ ev m = .scheduler := by
    by_contra never
    have no (k : Nat) (hk : a ≤ k) : ev k ≠ .scheduler := fun he => never ⟨k, hk, he⟩
    exact never (F a fun m hm => enabled m hm (before m hm fun k hk _ => no k hk))
  exact ⟨Nat.find comes, (Nat.find_spec comes).1, (Nat.find_spec comes).2, fun k hk hkm =>
    before k hk fun j hj hjk he => Nat.find_min comes (m := j) (by omega) ⟨hj, he⟩⟩

/-! ## Enabled steps stay enabled -/

/-- A tick of an idle serializer sends nothing (R282). -/
theorem shiftStep_idle (h : s.Inv) (sends : s.Sends) (fifo : s.ser.fifo = [])
    (left : ∀ l, (s.ser.lane.get l).left = 0) :
    s.shiftStep.ser.fifo = [] ∧ ∀ l, (s.shiftStep.ser.lane.get l).left = 0 := by
  have pos : 0 < s.lat.lanes := by
    rw [h.lanes_of_enabled (ticks_iff.mp sends.1).1]
    exact s.lat.mode.lanes_pos
  have same : s.afterLoad = s := afterLoad_of_not_ready fun k => by
    have short := k.2
    rw [fifo, List.length_nil] at short
    omega
  refine ⟨?_, fun l => ?_⟩
  · rw [shiftStep_frame, same]
    exact fifo
  · by_cases hl : l.toNat < s.lat.lanes
    · rw [shiftStep_get hl, same, Lane.shift_left, left l]
    · rw [shiftStep_get_unused (Nat.le_of_not_lt hl), left l]

/-- A transfer that can complete can do so until the scheduler's turn comes (R276). -/
theorem SendingTurn.completionReady (k : SendingTurn e s t) (h : s.Inv) (ready : s.completionReady = true)
    (he : e ≠ .scheduler) : t.completionReady = true := by
  obtain ⟨sub, idle, ended, int, fifo, left⟩ := completionReady_iff.mp ready
  cases k with
  | same w _ _ =>
    rw [completionReady_iff, w.state, w.dma, w.ser]
    exact completionReady_iff.mp ready
  | moves he' _ => exact absurd he' he
  | completes he' _ _ => exact absurd he' he
  | underruns _ starved _ _ => exact nomatch idle.symm.trans (starved_iff.mp starved).2.2
  | sends _ sends ht =>
    subst ht
    obtain ⟨fifo', left'⟩ := shiftStep_idle h sends fifo left
    exact completionReady_iff.mpr ⟨sub, idle, ended, int, fifo', left'⟩

/-- A DMA error ends a transfer (R362). -/
theorem raiseDmaError_not_submitted (s : State) (c : DmaCause) : (s.raiseDmaError c).seq.state ≠ .submitted := by
  rw [raiseDmaError_seq]
  dsimp only
  split
  · nofun
  · assumption

/-- In `SUBMITTED` lane 0 is in use (R154). -/
theorem State.Inv.lane0_used (h : s.Inv) (sub : s.seq.state = .submitted) : Chan.ch0.toNat < s.lat.lanes := by
  rw [h.lanes (by rw [sub]; nofun)]
  exact s.lat.mode.lanes_pos

theorem schedulerEnabled_iff : s.schedulerEnabled = true ↔ s.env.rstN = true ∧
    (s.dma.active = true ∧ (s.dma.loaded = false ∨ s.dma.txfrLen = 0#32 ∨ s.moveReady = true) ∨
      s.dma.active = false ∧ s.completionReady = true) := by
  unfold State.schedulerEnabled
  cases s.dma.active <;> simp [or_assoc]

/-- A tick takes words from the FIFO only, so a move that was ready stays ready (R269, R282). -/
theorem moveReady_shiftStep (ready : s.moveReady = true) : s.shiftStep.moveReady = true := by
  have fewer : s.shiftStep.ser.fifo.length ≤ s.ser.fifo.length := by
    rw [shiftStep_frame]
    show s.afterLoad.ser.fifo.length ≤ _
    unfold State.afterLoad
    split
    · exact (List.length_drop).trans_le (Nat.sub_le _ _)
    · exact le_refl _
  simp only [State.moveReady, State.dreq, Bool.or_eq_true, Bool.and_eq_true, decide_eq_true_iff] at ready ⊢
  exact ready.imp_right fun x => ⟨x.1, x.2.imp_right fun y => ⟨y.1, fewer.trans_lt y.2⟩⟩

/-- An enabled step of the scheduler stays enabled until its turn comes (R270, R276). -/
theorem SendingTurn.schedulerEnabled (k : SendingTurn e s t) (h : s.Inv) (he : e ≠ .scheduler)
    (sub' : t.seq.state = .submitted) (hr : t.env.rstN = true) (enabled : s.schedulerEnabled = true) :
    t.schedulerEnabled = true := by
  obtain ⟨-, ⟨active, move⟩ | ⟨idle, ready⟩⟩ := schedulerEnabled_iff.mp enabled
  · refine schedulerEnabled_iff.mpr ⟨hr, .inl ?_⟩
    cases k with
    | same w _ _ =>
      unfold State.moveReady State.dreq at *
      rw [w.dma, w.ser, w.lat, w.cfg]
      exact ⟨active, move⟩
    | moves he' _ => exact absurd he' he
    | completes he' _ _ => exact absurd he' he
    | underruns _ _ _ ht => exact absurd sub' (ht ▸ raiseDmaError_not_submitted s _)
    | sends _ _ ht =>
      subst ht
      exact ⟨active, move.imp_right (Or.imp_right moveReady_shiftStep)⟩
  · have ready' := k.completionReady h ready he
    exact schedulerEnabled_iff.mpr ⟨hr, .inr ⟨(completionReady_iff.mp ready').2.1, ready'⟩⟩

/-- With room in the FIFO a running scheduler has an enabled step (R264, R270, R272). -/
theorem State.Inv.schedulerEnabled_of_room (h : s.Inv) (hr : s.env.rstN = true) (ha : s.dma.active = true)
    (room : s.ser.fifo.length < s.cfg.fifoDepth) : s.schedulerEnabled = true := by
  refine schedulerEnabled_iff.mpr ⟨hr, .inl ⟨ha, ?_⟩⟩
  cases hl : s.dma.loaded with
  | false => exact .inl rfl
  | true =>
    obtain ⟨b, -, -, -, place⟩ := h.inChain ha
    exact .inr (.inr (((place.atWork hl).moveReady_iff hl).mpr room))

/-- The FIFO holds the words of all lanes (R11, R154). -/
theorem State.Inv.lanes_le_fifoDepth (h : s.Inv) : s.lat.mode.lanes ≤ s.cfg.fifoDepth := by
  obtain ⟨-, -, -, -, depth, -⟩ := of_decide_eq_true h.cfgOk
  exact le_trans (by cases s.lat.mode <;> decide) depth

/-! ## What is left to do -/

/-- The steps and sub-bits still to come of a frame in flight. -/
def State.workLeft (s : State) (g : Geometry) (frame : List Word) : Nat :=
  s.dma.stepsLeft g + (s.laneAhead g frame .ch0).length

/-- A turn that stays in `SUBMITTED` keeps the frame in flight and adds no work. -/
theorem SendingTurn.workLeft_le (k : SendingTurn e s t) (h : s.Inv) (f : s.InFlight g frame)
    (sub : s.seq.state = .submitted) (sub' : t.seq.state = .submitted) :
    t.InFlight g frame ∧ t.workLeft g frame ≤ s.workLeft g frame := by
  unfold State.workLeft
  cases k with
  | same w _ _ => exact ⟨w.kept.inFlight f, by rw [w.kept.laneAhead f, w.dma]⟩
  | moves _ w =>
    refine ⟨w.inFlight f, ?_⟩
    rw [w.laneAhead f]
    exact Nat.add_le_add_right (w.left f).le _
  | completes _ _ ht =>
    subst ht
    exact nomatch sub'
  | underruns _ _ _ ht => exact absurd sub' (ht ▸ raiseDmaError_not_submitted s _)
  | sends _ sends ht =>
    subst ht
    obtain ⟨flight, ahead⟩ := f.shiftStep h sends
    refine ⟨flight, ?_⟩
    rw [(ahead .ch0 (h.lane0_used sub)).1, List.length_tail]
    exact Nat.add_le_add_left (Nat.sub_le _ _) _

/-- A turn that does none of the work is not an enabled step of the scheduler, nor a tick with a sub-bit to send. -/
theorem SendingTurn.stuck (k : SendingTurn e s t) (h : s.Inv) (f : s.InFlight g frame) (sub : s.seq.state = .submitted)
    (sub' : t.seq.state = .submitted) (same : s.workLeft g frame ≤ t.workLeft g frame) :
    (e = .scheduler → s.schedulerEnabled = false) ∧ (e = .serializer → s.Sends → s.laneAhead g frame .ch0 = []) := by
  unfold State.workLeft at same
  cases k with
  | same _ held dark => exact ⟨held, fun he sends => absurd sends (dark he)⟩
  | moves _ w =>
    rw [w.laneAhead f] at same
    have left := w.left f
    omega
  | completes _ _ ht =>
    subst ht
    exact nomatch sub'
  | underruns _ _ _ ht => exact absurd sub' (ht ▸ raiseDmaError_not_submitted s _)
  | sends he sends ht =>
    subst ht
    refine ⟨fun he' => (nomatch he.symm.trans he'), fun _ _ => ?_⟩
    have steps : s.shiftStep.dma.stepsLeft g = s.dma.stepsLeft g := rfl
    rw [((f.shiftStep h sends).2 .ch0 (h.lane0_used sub)).1, steps, List.length_tail] at same
    exact List.length_eq_zero_iff.mp (by omega)

theorem laneWords_eq_nil {m : Mode} {ws : List Word} (h : laneWords m .ch0 ws = []) : ws = [] := by
  cases m with
  | pwm =>
    rcases ws with _ | ⟨a, _ | ⟨b, ws⟩⟩
    · rfl
    · exact nomatch h
    · exact nomatch h
  | pcm | spi => exact h

/-- With nothing ahead, the scheduler has an enabled step: one of its chain, or the completion (R260, R276). -/
theorem State.Inv.schedulerEnabled_of_none_ahead (h : s.Inv) (hr : s.env.rstN = true) (sub : s.seq.state = .submitted)
    (calm : ¬ s.seq.phase.stopping) (nil : s.laneAhead g frame .ch0 = []) : s.schedulerEnabled = true := by
  rw [laneAhead_eq, List.append_eq_nil_iff] at nil
  obtain ⟨pending, words⟩ := nil
  have left0 : s.ser.lane.ch0.left = 0 := Lane.pending_eq_nil.mp pending
  have fifo : s.ser.fifo = [] := by
    have empty : laneWords s.lat.mode .ch0 (s.ser.fifo ++ frame.drop (s.dma.nextSource g)) = [] := by
      rw [List.flatMap_eq_nil_iff] at words
      refine List.eq_nil_iff_forall_not_mem.mpr fun w hw => ?_
      have long := length_subBitsOf w
      rw [words w hw] at long
      exact nomatch long
    exact (List.append_eq_nil_iff.mp (laneWords_eq_nil empty)).1
  cases ha : s.dma.active with
  | true =>
    refine h.schedulerEnabled_of_room hr ha ?_
    rw [fifo]
    exact s.lat.mode.lanes_pos.trans_le h.lanes_le_fifoDepth
  | false =>
    obtain ⟨ended, int⟩ := (h.finished sub ha).resolve_left calm
    have left1 : s.ser.lane.ch1.left = 0 := by
      rw [h.left1, left0]
      exact ite_self 0
    exact schedulerEnabled_iff.mpr ⟨hr, .inr ⟨ha, completionReady_iff.mpr
      ⟨sub, ha, ended, int, fifo, fun l => by cases l; exacts [left0, left1]⟩⟩⟩

/-- A tick that underruns finds a scheduler with an enabled step (R270, R283). -/
theorem State.Inv.schedulerEnabled_of_starved (h : s.Inv) (hr : s.env.rstN = true) (starved : s.starved = true) :
    s.schedulerEnabled = true := by
  obtain ⟨-, few, ha⟩ := starved_iff.mp starved
  rw [h.lanes (by rw [h.activeSubmitted ha]; nofun)] at few
  exact h.schedulerEnabled_of_room hr ha (few.trans_le h.lanes_le_fifoDepth)

end Sys2Proof.Machine
end

section
/-! Transfers end (R274, R276, R283, R418). -/

namespace Sys2Proof.Machine

open State

variable {s t : State} {e : Event} {g : Geometry} {frame : List Word} {r : Nat → State} {ev : Nat → Event} {n : Nat}

/-- From step `n` on a run has no FINI and no reset. -/
def Undisturbed (r : Nat → State) (n : Nat) : Prop :=
  ∀ m, n ≤ m → (r m).env.rstN = true ∧ ¬ (r m).seq.phase.stopping

/-- A step of such a run from `SUBMITTED` is a sending turn. -/
theorem IsRun.submittedTurn (R : IsRun r ev) (quiet : Undisturbed r n) {m : Nat} (hm : n ≤ m) (h : (r m).Inv)
    (sub : (r m).seq.state = .submitted) : SendingTurn (ev m) (r m) (r (m + 1)) := by
  obtain ⟨rst, calm⟩ := quiet m hm
  obtain ⟨rst', calm'⟩ := quiet (m + 1) (by omega)
  exact R.sendingTurn h ⟨rst, .inl sub, calm⟩ ⟨rst', calm', fun k => nomatch sub.symm.trans k⟩

/-- The scheduler's turn completes a transfer that can complete (R276). -/
theorem SendingTurn.eq_complete (k : SendingTurn e s t) (hr : s.env.rstN = true) (ready : s.completionReady = true)
    (he : e = .scheduler) : t = { s with seq := { s.seq with state := .complete } } := by
  have idle : s.dma.active = false := (completionReady_iff.mp ready).2.1
  cases k with
  | same _ held _ =>
    exact nomatch (held he).symm.trans (schedulerEnabled_iff.mpr ⟨hr, .inr ⟨idle, ready⟩⟩)
  | moves _ w => exact nomatch idle.symm.trans w.active
  | completes _ _ ht => exact ht
  | underruns he' _ _ _ => exact nomatch he.symm.trans he'
  | sends he' _ _ => exact nomatch he.symm.trans he'

/-- A transfer that can complete does, with a fair scheduler (R274, R276). -/
theorem IsRun.completes (R : IsRun r ev) (F : SchedulerFair r ev) (h : (r n).Inv)
    (ready : (r n).completionReady = true) (quiet : Undisturbed r n) :
    ∃ m, n ≤ m ∧ (r m).seq.state = .complete ∧ (r m).seq.xferErr = false ∧
      ∀ k, n ≤ k → k < m → (r k).seq.state = .submitted := by
  have submitted {m : Nat} (k : (r m).completionReady = true) : (r m).seq.state = .submitted :=
    (completionReady_iff.mp k).1
  obtain ⟨m, hm, he, all⟩ := F.comes (fun s => s.completionReady = true) ready
    (fun m hm k he => (R.submittedTurn quiet hm (R.inv h hm) (submitted k)).completionReady (R.inv h hm) k he)
    (fun m hm k => schedulerEnabled_iff.mpr ⟨(quiet m hm).1, .inr ⟨(completionReady_iff.mp k).2.1, k⟩⟩)
  have now := all m hm (le_refl m)
  have noError : (r m).seq.xferErr = false :=
    Bool.eq_false_iff.mpr fun k => nomatch (submitted now).symm.trans ((R.inv h hm).xferErr k)
  have done := (R.submittedTurn quiet hm (R.inv h hm) (submitted now)).eq_complete (quiet m hm).1 now he
  refine ⟨m + 1, by omega, ?_, ?_, fun k hk hkm => submitted (all k hk (by omega))⟩
  · rw [done]
  · rw [done]
    exact noError

/-- While a run stays in `SUBMITTED` its frame stays in flight, under the same parameters, and no work is added. -/
theorem IsRun.inFlight (R : IsRun r ev) (quiet : Undisturbed r n) (h : (r n).Inv) (f : (r n).InFlight g frame) {m : Nat}
    (hm : n ≤ m) (sub : ∀ k, n ≤ k → k ≤ m → (r k).seq.state = .submitted) :
    (r m).InFlight g frame ∧ (r m).cfg = (r n).cfg ∧ (r m).workLeft g frame ≤ (r n).workLeft g frame := by
  induction m, hm using Nat.le_induction with
  | base => exact ⟨f, rfl, le_refl _⟩
  | succ m hm ih =>
    obtain ⟨flight, cfg, less⟩ := ih fun k hk hkm => sub k hk (by omega)
    have now := sub m hm (by omega)
    have inv := R.inv h hm
    have turn := R.submittedTurn quiet hm inv now
    obtain ⟨flight', less'⟩ := turn.workLeft_le inv flight now (sub (m + 1) (by omega) (le_refl _))
    exact ⟨flight', turn.sameSetup.cfg.trans cfg, less'.trans less⟩

/-- In a fair run a transfer in flight ends or some of its work is done: else an enabled scheduler never moves, or a
serializer with something to send never ticks (R274, R418). -/
theorem FairRun.progress (F : FairRun r ev) (quiet : Undisturbed r n) (h : (r n).Inv) (f : (r n).InFlight g frame) :
    ∃ m, n ≤ m ∧ ((r m).seq.state ≠ .submitted ∨ (r m).workLeft g frame < (r n).workLeft g frame) := by
  by_contra no
  have sub (m : Nat) (hm : n ≤ m) : (r m).seq.state = .submitted := of_not_not fun k => no ⟨m, hm, .inl k⟩
  have stays (m : Nat) (hm : n ≤ m) : (r n).workLeft g frame ≤ (r m).workLeft g frame :=
    Nat.le_of_not_lt fun k => no ⟨m, hm, .inr k⟩
  have inv (m : Nat) (hm : n ≤ m) : (r m).Inv := F.run.inv h hm
  have turn (m : Nat) (hm : n ≤ m) := F.run.submittedTurn quiet hm (inv m hm) (sub m hm)
  have stuck (m : Nat) (hm : n ≤ m) : (ev m = .scheduler → (r m).schedulerEnabled = false) ∧
      (ev m = .serializer → (r m).Sends → (r m).laneAhead g frame .ch0 = []) := by
    obtain ⟨flight, -, less⟩ := F.run.inFlight quiet h f hm fun k hk _ => sub k hk
    exact (turn m hm).stuck (inv m hm) flight (sub m hm) (sub (m + 1) (by omega))
      (less.trans (stays (m + 1) (by omega)))
  have idle (m : Nat) (hm : n ≤ m) : (r m).schedulerEnabled ≠ true := fun enabled => by
    obtain ⟨k, hk, he, all⟩ := F.scheduler.comes (fun s => s.schedulerEnabled = true) enabled
      (fun k hk en he => (turn k (hm.trans hk)).schedulerEnabled (inv k (hm.trans hk)) he
        (sub (k + 1) (by omega)) (quiet (k + 1) (by omega)).1 en) fun _ _ en => en
    exact nomatch ((stuck k (hm.trans hk)).1 he).symm.trans (all k hk (le_refl k))
  have running (m : Nat) (hm : n ≤ m) :=
    (inv m hm).running (by rw [sub m hm]; nofun) (quiet m hm).2
  obtain ⟨m, hm, he⟩ := F.serializer n fun m hm =>
    ⟨(quiet m hm).1, Bool.and_eq_true_iff.mpr ⟨(running m hm).1, (running m hm).2.1⟩⟩
  obtain ⟨enab, busy, -, enabled⟩ := running m hm
  obtain ⟨rst, calm⟩ := quiet m hm
  cases starved : (r m).starved with
  | true => exact idle m hm ((inv m hm).schedulerEnabled_of_starved rst starved)
  | false =>
    have nil := (stuck m hm).2 he ⟨ticks_iff.mpr ⟨enabled, enab, busy⟩, starved⟩
    exact idle m hm ((inv m hm).schedulerEnabled_of_none_ahead rst (sub m hm) calm nil)

/-- In a fair run a transfer in flight leaves `SUBMITTED`: the work left is a number that keeps falling. -/
theorem FairRun.leaves_submitted (F : FairRun r ev) (quiet : Undisturbed r n) (h : (r n).Inv)
    (f : (r n).InFlight g frame) : ∃ m, n ≤ m ∧ (r m).seq.state ≠ .submitted := by
  induction hw : (r n).workLeft g frame using Nat.strong_induction_on generalizing n with
  | _ w ih =>
    obtain ⟨m, hm, past | less⟩ := F.progress quiet h f
    · exact ⟨m, hm, past⟩
    · by_cases sub : ∀ k, n ≤ k → k ≤ m → (r k).seq.state = .submitted
      · obtain ⟨flight, -, -⟩ := F.run.inFlight quiet h f hm sub
        obtain ⟨k, hk, past⟩ := ih _ (hw ▸ less) (fun k hk => quiet k (hm.trans hk)) (F.run.inv h hm) flight rfl
        exact ⟨k, hm.trans hk, past⟩
      · push Not at sub
        obtain ⟨k, hk, -, past⟩ := sub
        exact ⟨k, hk, past⟩

/-- Without underruns no turn of a transfer raises an error (R17, R283). -/
theorem SendingTurn.xferErr (k : SendingTurn e s t) (never : s.cfg.transferErrors = .never) :
    t.seq.xferErr = s.seq.xferErr := by
  cases k with
  | same w _ _ => exact w.xferErr
  | moves _ w => exact w.xferErr
  | completes _ _ ht => exact ht ▸ rfl
  | underruns _ _ anytime _ => exact nomatch never.symm.trans anytime
  | sends _ _ ht => exact ht ▸ rfl

/-- Settles O59: the completion by the scheduler's fairness; the transfer by the work left, up to the first step out of
`SUBMITTED`. -/
theorem completionIsReached : Obligations.CompletionIsReached := by
  unfold Obligations.CompletionIsReached
  refine ⟨fun r ev n R F h ready quiet => R.completes F h ready quiet, fun r ev n g frame F h sub f quiet => ?_⟩
  classical
  have leaves := F.leaves_submitted quiet h f
  obtain ⟨hm, past⟩ := Nat.find_spec leaves
  have before (k : Nat) (hk : n ≤ k) (hkm : k < Nat.find leaves) : (r k).seq.state = .submitted :=
    of_not_not fun x => Nat.find_min leaves hkm ⟨hk, x⟩
  generalize Nat.find leaves = m at hm past before
  obtain ⟨k, hk, rfl⟩ : ∃ k, n ≤ k ∧ m = k + 1 := by
    have later : n ≠ m := fun same => past (same ▸ sub)
    exact ⟨m - 1, by omega, by omega⟩
  have now := before k hk (Nat.lt_succ_self k)
  have turn := F.run.submittedTurn quiet hk (F.run.inv h hk) now
  refine ⟨k + 1, hm, ((turn.state now).resolve_left past).1, fun never => ⟨?_, fun l _ =>
    (F.run.inv h hm).laneAhead_eq_nil past f.length l⟩, before⟩
  obtain ⟨-, cfg, -⟩ := F.run.inFlight quiet h f hk fun j hj hjk => before j hj (by omega)
  rw [turn.xferErr (cfg ▸ never)]
  exact Bool.eq_false_iff.mpr fun err => nomatch now.symm.trans ((F.run.inv h hk).xferErr err)

end Sys2Proof.Machine
end

section
/-! The command word: accepted, dropped and run, and what a malformed one does (R300, R301, R340). -/

namespace Sys2Proof.Machine

open State

variable {s : State} {es : List Event}

/-! ## Writes to `CMD` -/

theorem Seq.writeCmd_idle {q : Seq} (idle : q.cmdBusy = false) (v : Word) :
    q.writeCmd v = { q with cmd := v, cmdBusy := true, phase := .start } := if_neg (by simp [idle])

theorem Seq.writeCmd_busy {q : Seq} (busy : q.cmdBusy = true) (v : Word) :
    q.writeCmd v = { q with cmdLost := true } := if_pos busy

/-- A write to `CMD` while no command runs is accepted (R300). -/
theorem hostAccess_cmd_accepted (idle : s.seq.cmdBusy = false) (v : Word) :
    s.hostAccess 0x008#20 4 (.write v) = .next { s with
      seq := { s.seq with cmd := v, cmdBusy := true, phase := .start }
      env := { s.env with bus := .written } } := by
  rw [← Seq.writeCmd_idle idle]
  exact hostAccess_write_reg s .cmd v

/-- A write to `CMD` while one runs is dropped (R301). -/
theorem hostAccess_cmd_dropped (busy : s.seq.cmdBusy = true) (v : Word) :
    s.hostAccess 0x008#20 4 (.write v) = .next { s with
      seq := { s.seq with cmdLost := true }
      env := { s.env with bus := .written } } := by
  rw [← Seq.writeCmd_busy busy v]
  exact hostAccess_write_reg s .cmd v

/-- Settles O28: the two cases of a write to `CMD`, and its read. -/
theorem commandsAcceptedOrDropped : Obligations.CommandsAcceptedOrDropped := by
  unfold Obligations.CommandsAcceptedOrDropped
  exact fun s v => ⟨fun idle => hostAccess_cmd_accepted idle v, fun busy => hostAccess_cmd_dropped busy v,
    hostAccess_read_reg s .cmd⟩

/-! ## The sequencer's turn -/

theorem sequencerTurn_busy (busy : s.seq.cmdBusy = true) : sequencerTurn s = exec (decodeCmd s.seq.cmd) s := if_pos busy

theorem sequencerTurn_idle (idle : s.seq.cmdBusy = false) : sequencerTurn s = .next s := if_neg (by simp [idle])

/-- Settles O10: the step is the sequencer's turn, at the state without the event. -/
theorem stepRunsCommand : Obligations.StepRunsCommand := by
  unfold Obligations.StepRunsCommand
  intro s es hr he
  rw [step_of_event hr he]
  exact ⟨fun busy => sequencerTurn_busy busy, fun idle => sequencerTurn_idle idle⟩

/-! ## Malformed command words -/

/-- A legal command word has an opcode from 1 to 5, and a channel with opcode 5 only (R144). -/
theorem cmdOp_of_legal {op : Byte} {ch : Bool} {rsvd : BitVec 23} (legal : legalCommand op ch rsvd = true) :
    rsvd = 0#23 ∧ 1 ≤ op.toNat ∧ op.toNat ≤ 5 ∧ (ch = true → op.toNat = 5) := by
  obtain ⟨hr, ⟨hc, rfl | rfl | rfl | rfl⟩ | rfl⟩ := legalCommand_iff.mp legal <;> simp_all

/-- A reserved opcode, a reserved bit, or a channel where none belongs makes the word malformed (R340). -/
theorem decodeCmd_malformed {w : Word} (h : (w.field 0 8).toNat = 0 ∨ 5 < (w.field 0 8).toNat ∨ w.field 9 23 ≠ 0#23 ∨
    (w.getLsbD 8 = true ∧ (w.field 0 8).toNat ≠ 5)) :
    decodeCmd w = .cmdMalformed (cmdOp w) (cmdCh w) (cmdRsvd w) := by
  refine if_neg fun legal => ?_
  obtain ⟨rsvd, low, high, chan⟩ := cmdOp_of_legal legal
  rcases h with zero | above | reserved | ⟨ch, op⟩
  · exact absurd (zero ▸ low) (by decide)
  · exact absurd high (Nat.not_le.mpr above)
  · exact reserved rsvd
  · exact op (chan ch)

/-- Settles O4: the word decodes to a malformed command, whose one step is its completion. -/
theorem malformedCommandFails : Obligations.MalformedCommandFails := by
  unfold Obligations.MalformedCommandFails
  refine ⟨fun s op ch rsvd => rfl, fun s w idle bad => ?_⟩
  refine ⟨_, _, hostAccess_cmd_accepted idle w, rfl, fun v => hostAccess_cmd_dropped rfl v, ?_, ?_, rfl⟩
  · rw [decodeCmd_malformed bad]
    rfl
  · exact (sequencerTurn_busy rfl).trans (congrArg (exec · _) (decodeCmd_malformed bad))

end Sys2Proof.Machine
end

section
/-! RENDER's holds and its arming, and the steps of WAIT and SET_GAMMA (R320, R322, R330, R331). -/

namespace Sys2Proof.Machine

open State

variable {s : State}

/-! ## RENDER's holds -/

theorem execRender_start (hp : s.seq.phase = .start) : execRender s =
    if s.seq.state = .uninit then .next (s.complete .genericFailure) else .next (s.goto .renderPrior .prior) := by
  simp only [execRender, hp]

theorem execRender_renderPrior (hp : s.seq.phase = .renderPrior) : execRender s =
    if s.seq.state = .submitted then .next s else .next (s.goto .renderLatch .latch) := by
  simp only [execRender, hp]

theorem execRender_renderLatch_holds (hp : s.seq.phase = .renderLatch)
    (early : s.tim.timeUs.toNat < s.tim.renderWait.toNat) : execRender s = .next s := by
  simp [execRender, hp, latchOver, early]

/-- Settles O38: each phase's equation, on either side of its condition. -/
theorem renderHolds : Obligations.RenderHolds := by
  unfold Obligations.RenderHolds
  intro s goes
  exact ⟨fun hp hu => (execRender_start hp).trans (if_pos hu), fun hp hu => (execRender_start hp).trans (if_neg hu),
    fun hp sub => (execRender_renderPrior hp).trans (if_pos sub),
    fun hp past => (execRender_renderPrior hp).trans (if_neg past),
    fun hp early => execRender_renderLatch_holds hp early⟩

/-! ## Arming -/

/-- The end of the latch interval as a sum of words (R322). -/
theorem nextRenderTime_eq (s : State) : s.nextRenderTime = s.tim.timeUs +
    BitVec.ofNat 64 (300 + ceilDiv (1000000 * max s.snap.ch0.bits s.snap.ch1.bits) s.lat.freqL.toNat) := by
  apply BitVec.eq_of_toNat_eq
  simp only [nextRenderTime, latchUs, BitVec.toNat_add, BitVec.toNat_ofNat, Nat.add_mod_mod]
  congr 1
  exact Nat.add_comm _ _

/-- Settles O47: in `ENCODING` the scheduler is stopped, and the arming step writes its three components. -/
theorem armsTheChain : Obligations.ArmsTheChain := by
  unfold Obligations.ArmsTheChain
  intro s hp
  refine ⟨fun h => h.stopped_of_renderArm hp, ?_⟩
  intro bits f wait
  have time : s.nextRenderTime = s.tim.timeUs + BitVec.ofNat 64 wait := nextRenderTime_eq s
  rw [← time]
  exact execRender_renderArm hp

/-! ## WAIT -/

theorem execWait_start (hp : s.seq.phase = .start) : execWait s =
    if s.seq.state = .uninit then .next (s.complete .genericFailure)
    else if s.seq.state = .idle then .next (s.complete .success)
    else .next (s.goto (.waitHold s.tim.timeUs) .waitCmd) := by
  simp only [execWait, hp]

theorem execWait_holds {t0 : BitVec 64} (hp : s.seq.phase = .waitHold t0) (held : s.waitHoldOver t0 = false) :
    execWait s = .next s := by
  simp [execWait, hp, held]

theorem execWait_ends {t0 : BitVec 64} (hp : s.seq.phase = .waitHold t0) (past : s.waitHoldOver t0 = true) :
    execWait s = .next (s.complete (if s.seq.state = .submitted ∨ s.seq.xferErr = true then .dma else .success)) := by
  simp only [execWait, hp, past]
  split_ifs <;> trivial

/-- WAIT holds in `SUBMITTED` until `WAIT_TIMEOUT_US` has passed (R331). -/
theorem waitHoldOver_iff {t0 : BitVec 64} : s.waitHoldOver t0 = true ↔
    s.seq.state ≠ .submitted ∨ t0.toNat + s.cfg.waitTimeoutUs ≤ s.tim.timeUs.toNat := by
  simp [waitHoldOver, elapsed]

/-- Settles O48: each phase's equation, on either side of its conditions. -/
theorem waitCompletes : Obligations.WaitCompletes := by
  unfold Obligations.WaitCompletes
  intro s t0 ends late
  refine ⟨fun hp => ?_, fun hp => ?_⟩
  · have start := execWait_start hp
    exact ⟨fun hu => start.trans (if_pos hu),
      fun hi => start.trans ((if_neg (by rw [hi]; nofun)).trans (if_pos hi)),
      fun hu hi => start.trans ((if_neg hu).trans (if_neg hi))⟩
  · have done {c : RetCode} (isOver : s.seq.state ≠ .submitted ∨ late)
        (code : (if s.seq.state = .submitted ∨ s.seq.xferErr = true then RetCode.dma else .success) = c) :
        execWait s = .next (s.complete c) :=
      code ▸ execWait_ends hp (waitHoldOver_iff.mpr isOver)
    refine ⟨fun sub early => execWait_holds hp ?_, fun sub hl => done (.inr hl) (if_pos (.inl sub)),
      fun past err => done (.inl past) (if_pos (.inr err)), fun past clean => done (.inl past) (if_neg ?_)⟩
    · exact Bool.eq_false_iff.mpr fun k => (waitHoldOver_iff.mp k).elim (absurd sub) early
    · exact not_or.mpr ⟨past, Bool.eq_false_iff.mp clean⟩

/-! ## SET_GAMMA -/

theorem length_gammaGen (f : Word) : (gammaGen f).length = 256 := by simp [gammaGen]

theorem Memory.read_setEntries_out {k a : Nat} {vs : List Byte} (m : Memory) (h : a < k ∨ k + vs.length ≤ a) :
    (m.setEntries k vs).read Memory.identity a = m.read Memory.identity a := by
  induction vs generalizing k with
  | nil => rfl
  | cons v vs ih =>
    rw [List.length_cons] at h
    rw [Memory.setEntries, Memory.read_write_other (by omega), ih (by omega)]

/-- A generated table changes its channel's entries only (R330). -/
theorem writeGamma_sameBytesBut (s : State) (ch : Chan) (f : Word) :
    SameBytesBut s (s.writeGamma ch (gammaGen f)) (fun r a => r = .gamma ch ∧ a < 256) := by
  intro r a h
  cases r with
  | gamma n =>
    simp only [byteAt, memory, writeGamma_ram]
    by_cases hn : n = ch
    · subst hn
      rw [Pair.get_set_same]
      refine Memory.read_setEntries_out _ (.inr ?_)
      rw [length_gammaGen, Nat.zero_add]
      exact Nat.le_of_not_lt fun k => h ⟨rfl, k⟩
    · rw [Pair.get_set_other hn]
  | _ => rfl

/-- Settles O49: the write of a table that has an entry for each byte. -/
theorem setGammaWritesTable : Obligations.SetGammaWritesTable := by
  unfold Obligations.SetGammaWritesTable
  intro s ch
  refine ⟨fun zero => if_pos zero, fun factor => ⟨_, if_neg factor, rfl, fun x => ?_, writeGamma_sameBytesBut s ch _⟩⟩
  obtain ⟨v, hv⟩ : ∃ v, (gammaGen s.regs.gammaFactor)[x.toNat]? = some v :=
    ⟨_, List.getElem?_eq_getElem (x.isLt.trans_eq (length_gammaGen _).symm)⟩
  rw [hv]
  exact congrArg some (writeGamma_entry ch hv).symm

end Sys2Proof.Machine
end

section
/-! FINI step by step (R200, R334). -/

namespace Sys2Proof.Machine

open State

variable {s : State}

theorem execFini_start (hp : s.seq.phase = .start) : execFini s =
    if s.seq.state = .uninit then .next (s.complete .success) else .next (s.finiStop.goto .finiDisable .none) := by
  simp only [execFini, hp]

theorem execFini_finiDisable (hp : s.seq.phase = .finiDisable) : execFini s =
    .next ((s.setEnab false).goto (.finiRelease s.tim.timeUs) (s.clockHold false)) := by
  simp only [execFini, hp]

theorem execFini_finiRelease {t0 : BitVec 64} (hp : s.seq.phase = .finiRelease t0) : execFini s =
    if !s.clockHoldOver false t0 then .next s else .next (s.finiRelease.complete .success) := by
  simp only [execFini, hp]

/-- FINI of an initialised block stops the DMA and the outputs first (R334 step 2). -/
theorem execFini_stops (hp : s.seq.phase = .start) (live : s.seq.state ≠ .uninit) :
    execFini s = .next (s.finiStop.goto .finiDisable .none) := (execFini_start hp).trans (if_neg live)

/-- FINI releases the configuration once its hold is over (R334 step 4). -/
theorem execFini_releases {t0 : BitVec 64} (hp : s.seq.phase = .finiRelease t0)
    (past : s.clockHoldOver false t0 = true) : execFini s = .next (s.finiRelease.complete .success) := by
  rw [execFini_finiRelease hp, past]
  rfl

theorem execFini_holds {t0 : BitVec 64} (hp : s.seq.phase = .finiRelease t0)
    (held : s.clockHoldOver false t0 = false) : execFini s = .next s := by
  rw [execFini_finiRelease hp, held]
  rfl

/-- Settles O36: each phase's equation, with what is known of the hold. -/
theorem finiSteps : Obligations.FiniSteps := by
  unfold Obligations.FiniSteps
  intro s t0 late lateAtOnce stopped
  exact ⟨fun hp hu => (execFini_start hp).trans (if_pos hu), fun hp hu => execFini_stops hp hu,
    fun hp => ⟨_, (clockHold_cases s false).symm, clockHold_eq_clock_iff, execFini_finiDisable hp⟩,
    fun hp => ⟨fun hb hl => execFini_holds hp (clockHoldOver_eq_false_iff.mpr ⟨hb, hl⟩),
      fun ends => execFini_releases hp (ends.elim (clockHoldOver_of_busy · t0) (clockHoldOver_of_late false))⟩⟩

end Sys2Proof.Machine
end

section
/-! INIT's steps but its checks: what one that is no success leaves (R311), and the commit (R312). -/

namespace Sys2Proof.Machine

open State

variable {s t : State}

/-! ## The phases of INIT -/

theorem execInit_start_fails (hp : s.seq.phase = .start) {code : RetCode} (hc : s.initChecks = .error code) :
    execInit s = .next (s.complete code) := by
  simp only [execInit, hp, hc]

theorem execInit_start_passes (hp : s.seq.phase = .start) {a : InitArgs} (hc : s.initChecks = .ok a) :
    execInit s = .next (s.goto (.initDisable a) .none) := by
  simp only [execInit, hp, hc]

/-- INIT's first step: a check fails, or the clock's steps follow (R310). -/
theorem execInit_start_cases (hp : s.seq.phase = .start) (h : execInit s = .next t) :
    (∃ code, s.initChecks = .error code ∧ t = s.complete code) ∨
    (∃ a, s.initChecks = .ok a ∧ t = s.goto (.initDisable a) .none) := by
  cases hc : s.initChecks with
  | error code => exact .inl ⟨code, rfl, (Host.Outcome.next.inj ((execInit_start_fails hp hc).symm.trans h)).symm⟩
  | ok a => exact .inr ⟨a, rfl, (Host.Outcome.next.inj ((execInit_start_passes hp hc).symm.trans h)).symm⟩

/-- A running INIT is at its start or in one of its four phases, with the block still uninitialised (R310). -/
theorem State.PhaseOk.of_init (h : s.PhaseOk) (hc : decodeCmd s.seq.cmd = .init) :
    s.seq.phase = .start ∨ s.seq.state = .uninit ∧
      ((∃ a, s.seq.phase = .initDisable a) ∨ (∃ a t0, s.seq.phase = .initProgram a t0 ∧ s.clk.enab = false) ∨
        (∃ a, s.seq.phase = .initEnable a) ∨ ∃ a t0, s.seq.phase = .initCommit a t0 ∧ s.clk.enab = true) := by
  unfold State.PhaseOk at h
  split at h <;> simp_all

/-- The divider is programmed once the clock has stopped (step B of R198). -/
theorem execInit_programs {a : InitArgs} {t0 : BitVec 64} (hp : s.seq.phase = .initProgram a t0)
    (stopped : s.env.busy = false) : execInit s = .next ((s.setDivi a.divi).goto (.initEnable a) .none) := by
  rw [execInit_initProgram hp, clockHoldOver_of_busy stopped, stopped]
  rfl

/-- The commit follows once the clock runs (R312). -/
theorem execInit_commits {a : InitArgs} {t0 : BitVec 64} (hp : s.seq.phase = .initCommit a t0)
    (answered : s.env.busy = true) : execInit s = .next ((s.initCommit a).complete .success) := by
  rw [execInit_initCommit hp, clockHoldOver_of_busy answered, answered]
  rfl

/-! ## Steps that are no success -/

/-- What a step of INIT that is no success leaves of `s` (R311). -/
structure InitLeaves (s t : State) : Prop where
  frame  : t = { s with
    clk := t.clk
    seq := { s.seq with
      result := t.seq.result, hold := t.seq.hold, cmdBusy := t.seq.cmdBusy, phase := t.seq.phase } }
  result : t.seq.cmdBusy = true → t.seq.result = s.seq.result
  early  : t.seq.cmdBusy = false → s.seq.phase = .start → t.clk = s.clk
  late   : t.seq.cmdBusy = false → s.seq.phase ≠ .start →
    t.clk.enab = false ∧ t.clk.divi = s.clk.divi ∧ s.seq.state = .uninit
  divi   : t.clk.divi ≠ s.clk.divi → ∃ a t0, s.seq.phase = .initProgram a t0 ∧ t.clk.divi = a.divi

/-- A step to a further phase, with a new setting of the clock. -/
theorem InitLeaves.goto (busy : s.seq.cmdBusy = true) (c : Clk) (p : Phase) (x : Hold)
    (divi : c.divi = s.clk.divi ∨ ∃ a t0, s.seq.phase = .initProgram a t0 ∧ c.divi = a.divi) :
    InitLeaves s (({ s with clk := c } : State).goto p x) where
  frame := rfl
  result _ := rfl
  early done := absurd (busy.symm.trans done) nofun
  late done := absurd (busy.symm.trans done) nofun
  divi := divi.resolve_left

/-- A failure: of a check, with the clock as it was, or later, with `ENAB` 0. -/
theorem InitLeaves.complete (c : Clk) (code : RetCode) (h : s.seq.phase = .start ∧ c = s.clk ∨
    s.seq.phase ≠ .start ∧ c.enab = false ∧ c.divi = s.clk.divi ∧ s.seq.state = .uninit) :
    InitLeaves s (({ s with clk := c } : State).complete code) where
  frame := rfl
  result := nofun
  early _ hp := (h.resolve_right fun k => k.1 hp).2
  late _ hp := (h.resolve_left fun k => hp k.1).2
  divi hne := h.elim (fun k => absurd (congrArg Clk.divi k.2) hne) fun k => absurd k.2.2.1 hne

/-- Settles O32: phase by phase, every step but the commit is one to a further phase, a failure, or a hold. -/
theorem initFailureChangesNothing : Obligations.InitFailureChangesNothing := by
  unfold Obligations.InitFailureChangesNothing
  intro s t h busy hc ht failed
  suffices k : InitLeaves s t from ⟨k.frame, k.result, k.early, k.late, k.divi⟩
  have holds : InitLeaves s s := .goto busy s.clk s.seq.phase s.seq.hold (.inl rfl)
  simp only [exec] at ht
  rcases h.phase.of_init hc with hp | ⟨hu, ⟨a, hp⟩ | ⟨a, t0, hp, enab⟩ | ⟨a, hp⟩ | ⟨a, t0, hp, -⟩⟩
  · rcases execInit_start_cases hp ht with ⟨code, -, rfl⟩ | ⟨a, -, rfl⟩
    · exact .complete s.clk code (.inl ⟨hp, rfl⟩)
    · exact .goto busy s.clk _ _ (.inl rfl)
  · obtain rfl := Host.Outcome.next.inj ((execInit_initDisable hp).symm.trans ht)
    exact .goto busy _ _ _ (.inl rfl)
  · rw [execInit_initProgram hp] at ht
    split_ifs at ht <;> obtain rfl := Host.Outcome.next.inj ht
    · exact holds
    · exact .complete s.clk _ (.inr ⟨by rw [hp]; nofun, enab, rfl, hu⟩)
    · exact .goto busy _ _ _ (.inr ⟨a, t0, hp, rfl⟩)
  · obtain rfl := Host.Outcome.next.inj ((execInit_initEnable hp).symm.trans ht)
    exact .goto busy _ _ _ (.inl rfl)
  · rw [execInit_initCommit hp] at ht
    split_ifs at ht <;> obtain rfl := Host.Outcome.next.inj ht
    · exact holds
    · exact .complete _ _ (.inr ⟨by rw [hp]; nofun, rfl, rfl, hu⟩)
    · exact absurd ⟨rfl, rfl⟩ failed

/-! ## The commit -/

/-- The commit writes the pixels it zeroes and the chain's sixteen words, and no other byte of any RAM (R312). -/
theorem initCommit_sameBytesBut (s : State) (a : InitArgs) : SameBytesBut s (s.initCommit a)
    (fun r x => (∃ n, r = .pixel n ∧ x < 4 * s.cfg.maxLeds) ∨ r = .cb ∧ x < 64) := by
  intro r x h
  cases r with
  | pixel n =>
    have above : 4 * s.cfg.maxLeds ≤ x := Nat.le_of_not_lt fun k => h (.inl ⟨n, rfl, k⟩)
    cases n <;> exact Memory.read_zeroWords_out _ above
  | cb => exact buildChain_read (s := s) _ _ (Nat.le_of_not_lt fun k => h (.inr ⟨rfl, k⟩))
  | gamma n | sym => rfl

theorem initCommit_pixel (s : State) (a : InitArgs) (n : Chan) {i : Nat} (hi : i < s.cfg.maxLeds) :
    ((s.initCommit a).ram.pixel.get n).word? i = some 0#32 := by
  cases n <;> exact Memory.word?_zeroWords_in _ hi

/-- Settles O33: the commit component by component. -/
theorem initCommits : Obligations.InitCommits := by
  unfold Obligations.InitCommits
  intro s a t0 hp answered g oe lane
  have enables (n : Chan) : (outputEnables a.mode a.active).get n = oe n := by
    dsimp only [oe, outputEnables]
    cases a.mode <;> cases n <;> rfl
  have lanes (n : Chan) : (s.initCommit a).ser.lane.get n = lane n := by
    dsimp only [lane]
    rw [← enables]
    cases n <;> rfl
  have ser : (s.initCommit a).ser = { s.ser with enabled := true, lane := { ch0 := lane .ch0, ch1 := lane .ch1 } } := by
    rw [← lanes, ← lanes]
    rfl
  refine ⟨_, execInit_commits hp answered, ?_, fun n i hi => initCommit_pixel s a n hi, ?_, initCommit_sameBytesBut s a⟩
  · exact congrArg (fun r => ({ (s.initCommit a).complete .success with ser := r } : State)) ser
  · exact fun k w hk => buildChain_word (s := s) a.mode g hk

end Sys2Proof.Machine
end

section
/-! INIT's checks in their order (R304, R305, R310). -/

namespace Sys2Proof.Machine

open State

variable {s : State}

/-! ## What the checks test -/

theorem hasPinFn_iff {c : Config} {p : Byte} {f : PinFn} :
    hasPinFn c p f = true ↔ p ≠ 0#8 ∧ (p, f) ∈ c.pinFunctions := by
  simp [hasPinFn]

/-- The mode, from channel 0's activity and pin (R305). -/
theorem eq_selectMode {c : Config} {active : Bool} {p : Byte} {mode : Mode}
    (pcm : active = true → hasPinFn c p .pcmDout = true → mode = .pcm)
    (spi : active = true → ¬ hasPinFn c p .pcmDout = true → hasPinFn c p .spiMosi = true → mode = .spi)
    (pwm : ¬ active = true ∨ ¬ hasPinFn c p .pcmDout = true ∧ ¬ hasPinFn c p .spiMosi = true → mode = .pwm) :
    mode = selectMode c active p := by
  unfold selectMode
  split_ifs with act isPcm isSpi
  · exact pcm act isPcm
  · exact spi act isPcm isSpi
  · exact pwm (.inr ⟨isPcm, isSpi⟩)
  · exact pwm (.inl act)

/-- A channel is wanted where its `COUNT` is above 0 (R310). -/
theorem wanted_get_iff {n : Chan} : s.wanted.get n = true ↔ 0 < (s.regs.chan.get n).count.toNat := by
  cases n <;> exact decide_eq_true_iff

theorem wantedSnaps_get (s : State) (n : Chan) : s.wantedSnaps.get n = snapOf (s.regs.chan.get n) (s.wanted.get n) := by
  cases n <;> rfl

/-- The snapshot of step 8 counts what `COUNT` holds: an inactive channel's is 0 (R211). -/
theorem wantedSnaps_count (s : State) (n : Chan) : (s.wantedSnaps.get n).count = (s.regs.chan.get n).count := by
  rw [wantedSnaps_get]
  cases act : s.wanted.get n with
  | true => rfl
  | false =>
    have zero : ¬ 0 < (s.regs.chan.get n).count.toNat := wanted_get_iff.not.mp (Bool.eq_false_iff.mp act)
    exact BitVec.eq_of_toNat_eq (Nat.eq_zero_of_not_pos zero).symm

theorem pinMissing_iff : s.pinMissing = true ↔
    ∃ n, 0 < (s.regs.chan.get n).count.toNat ∧ (s.regs.chan.get n).gpio = 0#8 := by
  simp [pinMissing, Chan.exists_iff, wanted, Pair.get]

theorem layoutBad_iff : s.layoutBad = true ↔
    ∃ n, 0 < (s.regs.chan.get n).count.toNat ∧ layoutSupported (s.regs.chan.get n).layout = false := by
  simp [layoutBad, Chan.exists_iff, wanted, Pair.get]

/-- Step 9 needs no activity: a channel with more LEDs than there can be is active (R310). -/
theorem ledsBad_iff : (s.cfg.maxLeds < s.regs.chan.ch0.count.toNat ∨ s.cfg.maxLeds < s.regs.chan.ch1.count.toNat) ↔
    ∃ n, 0 < (s.regs.chan.get n).count.toNat ∧ s.cfg.maxLeds < (s.regs.chan.get n).count.toNat := by
  simp only [Chan.exists_iff, Pair.get]
  omega

theorem dividerBad_iff {d : Nat} : dividerOk d = false ↔ d < 2 ∨ 4095 < d := by
  rw [Bool.eq_false_iff, Ne, dividerOk, decide_eq_true_iff, diviMin, diviMax]
  omega

/-- The words of a wanted snapshot (R212). -/
theorem wantedSnaps_words (s : State) (n : Chan) : (s.wantedSnaps.get n).words = (31 + 3 *
    ((s.regs.chan.get n).count.toNat * (if (s.regs.chan.get n).layout.field 28 4 ≠ 0#4 then 32 else 24))) / 32 := by
  have white : (s.wantedSnaps.get n).white = ((s.regs.chan.get n).layout.field 28 4 != 0#4) := by
    rw [wantedSnaps_get]
    rfl
  rw [words_eq, wantedSnaps_count, white]
  simp only [bne_iff_ne]

/-- Step 6, mode by mode (R310). -/
theorem pinsAllowed_iff :
    let act (n : Chan) : Prop := 0 < (s.regs.chan.get n).count.toNat
    let pin (n : Chan) (f : PinFn) : Prop :=
      (s.regs.chan.get n).gpio ≠ 0#8 ∧ ((s.regs.chan.get n).gpio, f) ∈ s.cfg.pinFunctions
    s.pinsAllowed = true ↔ match s.wantedMode with
      | .pwm => (act .ch0 → pin .ch0 .pwm0) ∧ (act .ch1 → pin .ch1 .pwm1) ∧
          (act .ch0 → act .ch1 → (s.regs.chan.get .ch0).gpio ≠ (s.regs.chan.get .ch1).gpio)
      | .pcm => pin .ch0 .pcmDout
      | .spi => pin .ch0 .spiMosi := by
  intro act pin
  have act_iff (n : Chan) : act n ↔ s.wanted.get n = true := wanted_get_iff.symm
  have pin_iff (n : Chan) (f : PinFn) : pin n f ↔ hasPinFn s.cfg (s.regs.chan.get n).gpio f = true := hasPinFn_iff.symm
  simp only [act_iff, pin_iff, pinsAllowed, pinsOk, Pair.get]
  cases s.wantedMode with
  | pwm => cases s.wanted.ch0 <;> cases s.wanted.ch1 <;> simp [and_assoc]
  | pcm => exact .rfl
  | spi => exact .rfl

/-! ## The first failing check -/

/-- What a list of checks answers: the code of one that fails, or that all pass. -/
def ChecksAnswer (fails : RetCode → Prop) (passes : Prop) : Option RetCode → Prop
  | some code => fails code
  | none => passes

theorem checksAnswer_none {fails : RetCode → Prop} {passes : Prop} : ChecksAnswer fails passes none ↔ passes := .rfl

/-- The first check, and those after it where it does not fail. -/
theorem checksAnswer_ite {fails : RetCode → Prop} {passes p : Prop} [Decidable p] {code : RetCode}
    {rest : Option RetCode} : ChecksAnswer fails passes (if p then some code else rest) ↔
      (p → fails code) ∧ (¬ p → ChecksAnswer fails passes rest) := by
  split_ifs with h <;> simp [h, ChecksAnswer]

/-- What INIT's first step passes on: what the registers hold, and the divider in its 12 bits (R310, R193). -/
theorem initArgs_divi {prof : Profile} (h : s.setupChecks prof = none) :
    (s.initArgs prof).divi.toNat = s.wantedDivider prof := by
  obtain ⟨-, -, -, -, -, range⟩ := setupChecks_none h
  have high : s.wantedDivider prof ≤ 4095 := (of_decide_eq_true range).2
  exact Nat.mod_eq_of_lt (by omega)

/-- INIT's first step, once the profile is found (R310 steps 3 to 11). -/
theorem setupChecks_answer {prof : Profile} (hp : s.seq.phase = .start) (hu : s.seq.state = .uninit)
    (found : lookupProfile s.cfg s.env.profileId = some prof) {passes : Prop}
    (pass : execInit s = .next (s.goto (.initDisable (s.initArgs prof)) .none) →
      (s.initArgs prof).divi.toNat = s.wantedDivider prof → passes) :
    ChecksAnswer (fun code => execInit s = .next (s.complete code)) passes (s.setupChecks prof) := by
  cases hc : s.setupChecks prof with
  | some code => exact execInit_start_fails hp (by simp [initChecks, hu, found, hc])
  | none => exact pass (execInit_start_passes hp (by simp [initChecks, hu, found, hc])) (initArgs_divi hc)

/-- Settles O30: each check's condition is the model's test of it, and the first that fails answers. -/
theorem initChecksInOrder : Obligations.InitChecksInOrder := by
  unfold Obligations.InitChecksInOrder
  intro s hp fails reg act pin f
  refine ⟨fun hu => execInit_start_fails hp (if_pos hu), fun hu none => execInit_start_fails hp ?_, ?_⟩
  · have missing : lookupProfile s.cfg s.env.profileId = .none := none
    simp [initChecks, hu, missing]
  intro hu prof mode found pcm spi pwm setupErr words d t l div check3 check4 check5 check6 check7 check8 check9 check10
    check11
  obtain rfl : mode = s.wantedMode := by
    apply eq_selectMode <;> simpa only [hasPinFn_iff, wanted, decide_eq_true_iff]
  have wanted (n : Chan) : s.wanted.get n = true ↔ act n := wanted_get_iff
  have c5 : (s.wantedMode ≠ .pwm ∧ s.wanted.ch1 = true) ↔ check5 := and_congr_right' (wanted .ch1)
  have c6 : (!s.pinsAllowed) = true ↔ check6 := by
    rw [Bool.not_eq_true', Bool.eq_false_iff]
    exact not_congr pinsAllowed_iff
  have c10 : s.cfg.symWords < s.wantedGeometry.n ↔ check10 := by
    rw [wantedGeometry, geometry_eq, tailWords_eq, wantedSnaps_words, wantedSnaps_words]
    rfl
  have answer := setupChecks_answer (passes := ?passes) hp hu found ?pass
  · unfold setupChecks at answer
    simp only [checksAnswer_ite, checksAnswer_none, pinMissing_iff, layoutBad_iff, c5, c6, ledsBad_iff, c10,
      dividerBad_iff, Bool.not_eq_true'] at answer
    exact answer
  case pass =>
    intro step divi
    refine ⟨_, step, rfl, rfl, rfl, divi, fun n => ⟨wanted n, wantedSnaps_count s n, ?_⟩⟩
    have snap : (s.initArgs prof).snap.get n = snapOf (reg n) (s.wanted.get n) := wantedSnaps_get s n
    rw [snap, ← wanted]
    exact ⟨rfl, rfl, rfl, fun active => by simp [snapOf, active], fun idle => by simp [snapOf, idle]⟩

end Sys2Proof.Machine
end

section
/-! The steps of `STATE`, each with the agent that takes it (R342). -/

namespace Sys2Proof.Machine

open State

variable {s t : State} {e : Event}

/-! ## The sequencer -/

theorem encodeStep_state (g0 g1 : List Word) : (s.encodeStep g0 g1).seq.state = s.seq.state := by
  rcases encodeStep_cases (s := s) g0 g1 with ⟨-, k⟩ | ⟨-, -, k⟩ | ⟨-, -, k⟩ <;> rw [k] <;> rfl

theorem buildPhase_state : s.buildPhase.seq.state = s.seq.state := by
  rcases buildPhase_cases (s := s) with ⟨-, k⟩ | ⟨-, k⟩
  · rw [k]
  · rw [k, buildChain_seq]

/-- The sequencer's steps of `STATE` (R342). -/
inductive SequencerEdge (s t : State) : Prop
  | init (cmd : decodeCmd s.seq.cmd = .init) (start : s.seq.state = .uninit) (target : t.seq.state = .idle)
      (result : t.seq.result = .success) (done : t.seq.cmdBusy = false)
  | clear (cmd : decodeCmd s.seq.cmd = .render) (start : s.seq.state = .complete) (target : t.seq.state = .idle)
  | encode (cmd : decodeCmd s.seq.cmd = .render) (start : s.seq.state = .idle) (target : t.seq.state = .encoding)
  | arm (cmd : decodeCmd s.seq.cmd = .render) (start : s.seq.state = .encoding) (target : t.seq.state = .submitted)
  | fini (cmd : decodeCmd s.seq.cmd = .fini) (start : s.seq.state ≠ .encoding) (target : t.seq.state = .uninit)

/-- INIT changes `STATE` at its commit. -/
theorem execInit_edge (h : s.PhaseOk) (hc : decodeCmd s.seq.cmd = .init) (ht : execInit s = .next t) :
    t.seq.state = s.seq.state ∨ SequencerEdge s t := by
  rcases execInit_cases ht with ⟨_, -, rfl⟩ | ⟨_, _, -, ⟨-, rfl⟩ | ⟨-, -, rfl⟩ | ⟨-, -, rfl⟩⟩ | ⟨_, -, rfl⟩ |
    ⟨_, _, hp, ⟨-, rfl⟩ | ⟨-, -, rfl⟩ | ⟨-, -, rfl⟩⟩ | ⟨_, -, rfl⟩ | ⟨_, -, rfl⟩
  case inr.inr.inr.inl.inr.inr => exact .inr (.init hc (h.initCommit_clk hp).1 rfl rfl rfl)
  all_goals exact .inl rfl

/-- FINI changes `STATE` at its last step. -/
theorem execFini_edge (h : s.PhaseOk) (hc : decodeCmd s.seq.cmd = .fini) (ht : execFini s = .next t) :
    t.seq.state = s.seq.state ∨ SequencerEdge s t := by
  rcases execFini_cases ht with ⟨-, rfl⟩ | ⟨_, -, ⟨-, rfl⟩ | ⟨-, rfl⟩⟩ | ⟨-, rfl⟩ | ⟨-, rfl⟩
  case inr.inl.inr => exact .inr (.fini hc (h.not_encoding (by simp [hc])) rfl)
  all_goals exact .inl rfl

/-- RENDER changes `STATE` at its clear step, at its encoding step and at its arming. -/
theorem execRender_edge (h : s.PhaseOk) (hc : decodeCmd s.seq.cmd = .render) (ht : execRender s = .next t) :
    t.seq.state = s.seq.state ∨ SequencerEdge s t := by
  have cleared (hp : s.seq.phase = .renderLatch) (idle : t.seq.state = .idle) :
      t.seq.state = s.seq.state ∨ SequencerEdge s t := by
    unfold State.PhaseOk at h
    rw [hp] at h
    exact h.2.imp (fun k => idle.trans k.symm) fun k => .clear hc k idle
  rcases execRender_cases ht with ⟨-, ⟨-, rfl⟩ | ⟨-, rfl⟩⟩ | ⟨hp, ⟨-, rfl⟩ | ⟨_, -, -, rfl⟩ | ⟨-, -, rfl⟩⟩ |
    ⟨hp, rfl⟩ | ⟨g0, g1, -, rfl⟩ | ⟨-, rfl⟩ | ⟨hp, rfl⟩ | ⟨-, rfl⟩ | ⟨-, rfl⟩
  case inr.inl.inr.inl => exact cleared hp rfl
  case inr.inl.inr.inr => exact cleared hp rfl
  case inr.inr.inl =>
    unfold State.PhaseOk at h
    rw [hp] at h
    exact .inr (.encode hc h.2.1 rfl)
  case inr.inr.inr.inl => exact .inl (encodeStep_state g0 g1)
  case inr.inr.inr.inr.inl => exact .inl buildPhase_state
  case inr.inr.inr.inr.inr.inl =>
    unfold State.PhaseOk at h
    rw [hp] at h
    exact .inr (.arm hc h.2.1 rfl)
  all_goals exact .inl rfl

theorem sequencerTurn_edge (h : s.PhaseOk) (ht : sequencerTurn s = .next t) :
    t.seq.state = s.seq.state ∨ s.seq.cmdBusy = true ∧ SequencerEdge s t := by
  rcases sequencerTurn_cases ht with ⟨busy, k⟩ | ⟨-, rfl⟩
  · cases hc : decodeCmd s.seq.cmd <;> simp only [hc, exec] at k
    case init => exact (execInit_edge h hc k).imp_right (⟨busy, ·⟩)
    case fini => exact (execFini_edge h hc k).imp_right (⟨busy, ·⟩)
    case render => exact (execRender_edge h hc k).imp_right (⟨busy, ·⟩)
    case wait =>
      rcases execWait_cases k with ⟨_, -, ⟨-, rfl⟩ | ⟨-, -, rfl⟩ | ⟨-, -, -, rfl⟩⟩ | ⟨-, rfl⟩ | ⟨-, rfl⟩ |
        ⟨-, -, rfl⟩ <;> exact .inl rfl
    case setGamma ch => rcases execSetGamma_cases k with ⟨-, rfl⟩ | ⟨-, rfl⟩ <;> exact .inl rfl
    case cmdMalformed =>
      obtain rfl := Host.Outcome.next.inj k
      exact .inl rfl
    case cb b => exact absurd hc (decodeCmd_ne_cb _ b)
  · exact .inl rfl

/-! ## All turns -/

/-- A turn of the scheduler or of the serializer changes `STATE` from `SUBMITTED` to `COMPLETE` only: at the completion,
with no new error, or at an underrun (R276, R362). -/
theorem SendingTurn.edge (h : s.Inv) (k : SendingTurn e s t) : t.seq.state = s.seq.state ∨
    ((e = .scheduler ∧ t.dma.error = s.dma.error ∨ (e = .scheduler ∨ e = .serializer) ∧ t.dma.error = true) ∧
      s.seq.state = .submitted ∧ t.seq.state = .complete) := by
  cases k with
  | same w _ _ => exact .inl w.state
  | moves _ w => exact .inl w.state
  | completes he ready ht =>
    subst ht
    exact .inr ⟨.inl ⟨he, rfl⟩, (completionReady_iff.mp ready).1, rfl⟩
  | underruns he starved _ ht =>
    subst ht
    have sub : s.seq.state = .submitted := h.activeSubmitted (starved_iff.mp starved).2.2
    exact .inr ⟨.inr ⟨.inr he, rfl⟩, sub, if_pos sub⟩
  | sends _ _ ht => exact .inl (ht ▸ rfl)

/-- Every turn leaves `STATE`, or takes a step of R342's table. -/
theorem State.Inv.turn_edge (h : s.Inv) (hr : s.env.rstN = true) (ht : Machine.turn e s = .next t) :
    t.seq.state = s.seq.state ∨ (e = .sequencer ∧ s.seq.cmdBusy = true ∧ SequencerEdge s t) ∨
    ((e = .scheduler ∧ t.dma.error = s.dma.error ∨ (e = .scheduler ∨ e = .serializer) ∧ t.dma.error = true) ∧
      s.seq.state = .submitted ∧ t.seq.state = .complete) := by
  cases e with
  | host offset bytes op => exact .inl (hostAccess_sameWire ht).state
  | platform address bytes op =>
    rcases platformAccess_cases ht with ⟨_, -, k⟩ | ⟨-, rfl⟩
    · exact .inl (hostAccess_sameWire k).state
    · exact .inl rfl
  | sequencer => exact (sequencerTurn_edge h.phase ht).imp_right fun k => .inl ⟨rfl, k⟩
  | scheduler => exact ((schedulerTurn_sending h hr ht).edge h).imp_right .inr
  | serializer =>
    obtain rfl := Host.Outcome.next.inj ht
    exact ((tick_sending s).edge h).imp_right .inr
  | clockManager | timer | resetLow | resetHigh | setProfileId v => exact .inl (Host.Outcome.next.inj ht ▸ rfl)

/-- Settles O13: each turn that changes `STATE` takes a step of the table. -/
theorem stateTransitions : Obligations.StateTransitions := by
  unfold Obligations.StateTransitions
  intro s t h hr ht changed
  obtain ⟨es, n, hn, ⟨-, k⟩ | ⟨k, -⟩⟩ := step_cases ht
  · have h' : State.Inv { s with env := { s.env with events := es, draws := n } } := hn ▸ h.nextEvent
    rcases (h'.turn_edge hr k).resolve_left changed with ⟨he, busy, edge⟩ | done
    · refine .inl ⟨he, busy, ?_⟩
      cases edge with
      | init cmd start target result done => exact .inl ⟨cmd, start, target, result, done⟩
      | clear cmd start target => exact .inr (.inl ⟨cmd, start, target⟩)
      | encode cmd start target => exact .inr (.inr (.inl ⟨cmd, start, target⟩))
      | arm cmd start target => exact .inr (.inr (.inr (.inl ⟨cmd, start, target⟩)))
      | fini cmd start target => exact .inr (.inr (.inr (.inr ⟨cmd, start, target⟩)))
    · exact .inr done
  · exact absurd (hr.symm.trans k) nofun

end Sys2Proof.Machine
end

section
/-! Runs with listed events: INIT to its commit, the clock manager answering (R198, R310, R312). -/

namespace Sys2Proof.Machine

open State

variable {s t : State} {es : List Event} {a : InitArgs}

/-! ## The steps of a run with listed events -/

/-- `s` with a command in a phase of its own, the clock engine and the clock manager's bit set, and other events to
come. -/
def State.inPhase (s : State) (es : List Event) (busy : Bool) (c : Clk) (p : Phase) (x : Hold) : State :=
  { s with
    env := { s.env with events := es, busy := busy }
    clk := c
    seq := { s.seq with phase := p, hold := x } }

/-- A listed turn of the sequencer takes the running command further. -/
theorem run_command {f : State → Host.Outcome State Fault Refusal} {k : Nat} (hr : s.env.rstN = true)
    (busy : s.seq.cmdBusy = true) (hc : exec (decodeCmd s.seq.cmd) = f) (he : s.env.events = .sequencer :: es)
    (hx : f { s with env := { s.env with events := es } } = .next t) :
    Sys2Proof.core.run (k + 1) s = Sys2Proof.core.run k t :=
  run_succ (((stepRunsCommand s es hr he).1 busy).trans (hc ▸ hx))

section
variable (hr : s.env.rstN = true) (running : s.seq.cmdBusy = true) {f : State → Host.Outcome State Fault Refusal}
  (hc : exec (decodeCmd s.seq.cmd) = f) {k : Nat} {b : Bool} {c : Clk} {p : Phase} {x : Hold}
include hr

theorem run_clockManager : Sys2Proof.core.run (k + 1) (s.inPhase (.clockManager :: es) b c p x) =
    Sys2Proof.core.run k (s.inPhase es c.enab c p x) :=
  run_succ (step_of_event (s := s.inPhase (.clockManager :: es) b c p x) hr rfl)

include running hc

/-- A listed turn of the sequencer takes a command to its next phase. -/
theorem run_phase {c' : Clk} {p' : Phase} {x' : Hold}
    (hx : f (s.inPhase es b c p x) = .next (s.inPhase es b c' p' x')) :
    Sys2Proof.core.run (k + 1) (s.inPhase (.sequencer :: es) b c p x) =
      Sys2Proof.core.run k (s.inPhase es b c' p' x') :=
  run_command hr running hc rfl hx

end

/-- INIT's commit and its completion write the phase and `HOLD`. -/
theorem initCommit_inPhase (s : State) (es : List Event) (b : Bool) (c : Clk) (p : Phase) (x : Hold) (a : InitArgs) :
    ((s.inPhase es b c p x).initCommit a).complete .success =
      ((s.inPhase es b c .start .none).initCommit a).complete .success := rfl

/-- Six turns of an INIT whose checks pass, the clock answering: the commit, at the divider programmed (R198, R310). -/
theorem run_init (hr : s.env.rstN = true) (busy : s.seq.cmdBusy = true) (cmd : decodeCmd s.seq.cmd = .init)
    (hp : s.seq.phase = .start) (checks : s.initChecks = .ok a) (stopped : s.env.busy = false)
    (he : s.env.events = [.sequencer, .sequencer, .sequencer, .sequencer, .clockManager, .sequencer] ++ es) :
    Sys2Proof.core.run 6 s =
      .next (((s.inPhase es true { enab := true, divi := a.divi } .start .none).initCommit a).complete .success) := by
  have hc : exec (decodeCmd s.seq.cmd) = execInit := by rw [cmd]; rfl
  calc Sys2Proof.core.run 6 s
    _ = Sys2Proof.core.run 5 (s.inPhase ([.sequencer, .sequencer, .sequencer, .clockManager, .sequencer] ++ es) false
          s.clk (.initDisable a) .none) :=
      run_command hr busy hc he (stopped ▸ execInit_start_passes (by exact hp) (by exact checks))
    _ = _ := run_phase hr busy hc (execInit_initDisable rfl)
    _ = _ := run_phase hr busy hc (execInit_programs rfl rfl)
    _ = _ := run_phase hr busy hc (execInit_initEnable rfl)
    _ = _ := run_clockManager hr
    _ = .next (((s.inPhase es true { enab := true, divi := a.divi } _ _).initCommit a).complete .success) :=
      run_command hr busy hc rfl (execInit_commits rfl rfl)
    _ = _ := congrArg _ (initCommit_inPhase s _ _ _ _ _ a)

end Sys2Proof.Machine
end

section
/-! INIT completes: with listed events, and in every fair run whose clock answers (R302, R310, R418). -/

namespace Sys2Proof.Machine

open State

variable {s t : State} {r : Nat → State} {ev : Nat → Event} {n : Nat} {a : InitArgs} {t0 : BitVec 64}

/-- A run of listed events keeps the invariant. -/
theorem State.Inv.run (h : s.Inv) {k : Nat} (hk : Sys2Proof.core.run k s = .next t) : t.Inv := by
  induction k generalizing s with
  | zero => exact Host.Outcome.next.inj hk ▸ h
  | succ k ih =>
    cases hs : step s with
    | next u => exact ih (stepKeepsInvariant s u h hs) ((run_succ hs).symm.trans hk)
    | fault f => cases f
    | refused c =>
      have stuck : Sys2Proof.core.step s = .refused c := hs
      simp [Host.Core.run, stuck] at hk

/-! ## The turns of a running command in a fair run -/

theorem SameCommand.refl (s : State) : SameCommand s s := ⟨rfl, rfl, rfl, rfl, rfl⟩

theorem SameCommand.trans {u : State} (k : SameCommand s t) (k' : SameCommand t u) : SameCommand s u :=
  ⟨k'.phase.trans k.phase, k'.cmd.trans k.cmd, k'.busy.trans k.busy, k'.clk.trans k.clk, k'.cfg.trans k.cfg⟩

/-- From step `n` on a run is out of reset. -/
def OutOfReset (r : Nat → State) (n : Nat) : Prop := ∀ m, n ≤ m → (r m).env.rstN = true

theorem IsRun.turn (R : IsRun r ev) (rst : OutOfReset r n) {m : Nat} (hm : n ≤ m) :
    turn (ev m) (r m) = .next (r (m + 1)) := (step_given (rst m hm)).symm.trans (R m)

theorem IsRun.sequencerTurn (R : IsRun r ev) (rst : OutOfReset r n) {m : Nat} (hm : n ≤ m) (he : ev m = .sequencer) :
    sequencerTurn (r m) = .next (r (m + 1)) := by
  have turn := R.turn rst hm
  rwa [he] at turn

/-- Another agent's step leaves a running command; the clock manager's bit stays or follows `ENAB`. -/
theorem IsRun.sameCommand (R : IsRun r ev) (rst : OutOfReset r n) (busy : (r n).seq.cmdBusy = true) {m : Nat}
    (hm : n ≤ m) (k : SameCommand (r n) (r m)) (he : ev m ≠ .sequencer) : SameCommand (r n) (r (m + 1)) ∧
      ((r (m + 1)).env.busy = (r m).env.busy ∨ (r (m + 1)).env.busy = (r n).clk.enab) := by
  obtain ⟨k', bit⟩ := turn_sameCommand (.inl (k.busy.trans busy)) he (R.turn rst hm) (rst (m + 1) (by omega))
  exact ⟨k.trans k', k.clk ▸ bit⟩

/-- A running command whose step changes its phase has its turn in a fair run (R418). -/
theorem FairRun.command_turn (F : FairRun r ev) (rst : OutOfReset r n) (busy : (r n).seq.cmdBusy = true)
    (enabled : ∀ t, SameCommand (r n) t → sequencerTurn t ≠ .next t) :
    ∃ m, n ≤ m ∧ sequencerTurn (r m) = .next (r (m + 1)) ∧ ∀ k, n ≤ k → k ≤ m → SameCommand (r n) (r k) := by
  obtain ⟨m, hm, he, all⟩ := F.sequencer_comes (SameCommand (r n)) (.refl _)
    (fun m hm k he => (F.run.sameCommand rst busy hm k he).1) fun m hm k => ⟨rst m hm, enabled _ k⟩
  exact ⟨m, hm, F.run.sequencerTurn rst hm he, all⟩

/-- A running command that waits for the clock manager has its answer, and then its turn, in a fair run whose clock
answers (R197, R418). -/
theorem FairRun.command_answered (F : FairRun r ev) (rst : OutOfReset r n) (busy : (r n).seq.cmdBusy = true)
    (never : (r n).cfg.clockMayFail = false)
    (holds : ∀ t, SameCommand (r n) t → t.env.busy ≠ (r n).clk.enab → sequencerTurn t = .next t)
    (enabled : ∀ t, SameCommand (r n) t → t.env.busy = (r n).clk.enab → sequencerTurn t ≠ .next t) :
    ∃ m, n ≤ m ∧ sequencerTurn (r m) = .next (r (m + 1)) ∧ (r m).env.busy = (r n).clk.enab ∧
      ∀ k, n ≤ k → k ≤ m → SameCommand (r n) (r k) := by
  obtain ⟨m₁, hm₁, all₁, bit₁⟩ := F.clock_answers (SameCommand (r n)) (r n).clk.enab (.refl _) never
    (fun m hm k => ⟨rst m hm, congrArg Clk.enab k.clk⟩) fun m hm k waits => by
      by_cases he : ev m = .sequencer
      · have turn := F.run.turn rst hm
        simp only [he, Machine.turn, holds _ k waits] at turn
        exact Host.Outcome.next.inj turn ▸ k
      · exact (F.run.sameCommand rst busy hm k he).1
  obtain ⟨m₂, hm₂, he, all₂⟩ := F.sequencer_comes (fun t => SameCommand (r n) t ∧ t.env.busy = (r n).clk.enab)
    (a := m₁) ⟨all₁ m₁ hm₁ (le_refl _), bit₁⟩
    (fun m hm k he => by
      obtain ⟨k', bit⟩ := F.run.sameCommand rst busy (hm₁.trans hm) k.1 he
      exact ⟨k', bit.elim (·.trans k.2) id⟩)
    fun m hm k => ⟨rst m (hm₁.trans hm), enabled _ k.1 k.2⟩
  refine ⟨m₂, hm₁.trans hm₂, F.run.sequencerTurn rst (hm₁.trans hm₂) he,
    (all₂ m₂ hm₂ (le_refl _)).2, fun k hk hkm => ?_⟩
  by_cases early : k ≤ m₁
  · exact all₁ k hk early
  · exact (all₂ k (by omega) hkm).1

/-! ## A command that runs to its end -/

/-- From step `n` on a fair run out of reset, whose clock manager answers, has command `i` running. -/
structure CommandRun (r : Nat → State) (ev : Nat → Event) (n : Nat) (i : Instr) : Prop where
  fair  : FairRun r ev
  rst   : OutOfReset r n
  never : (r n).cfg.clockMayFail = false
  inv   : (r n).Inv
  busy  : (r n).seq.cmdBusy = true
  cmd   : decodeCmd (r n).seq.cmd = i

/-- The running command completes, in a state of which `P` holds. -/
def Completes (r : Nat → State) (n : Nat) (P : State → Prop) : Prop :=
  ∃ m, n ≤ m ∧ (r m).seq.cmdBusy = false ∧ P (r m) ∧ ∀ k, n ≤ k → k < m → (r k).seq.cmdBusy = true

theorem Completes.imp {P Q : State → Prop} (h : Completes r n P) (imp : ∀ t, P t → Q t) : Completes r n Q := by
  obtain ⟨m, hm, done, post, running⟩ := h
  exact ⟨m, hm, done, imp _ post, running⟩

section
variable {i : Instr} {m : Nat} {P : State → Prop} (h : CommandRun r ev n i)
include h

/-- The sequencer's turn is the command's, until it has taken a step. -/
theorem CommandRun.turn_eq (k : SameCommand (r n) t) : sequencerTurn t = exec i t := by
  rw [sequencerTurn_busy (k.busy.trans h.busy), k.cmd, h.cmd]

/-- The command completes in the turn of step `m`. -/
theorem CommandRun.completes (hm : n ≤ m) (all : ∀ k, n ≤ k → k ≤ m → SameCommand (r n) (r k))
    (done : (r (m + 1)).seq.cmdBusy = false) (post : P (r (m + 1))) : Completes r n P :=
  ⟨m + 1, by omega, done, post, fun k hk hkm => (all k hk (by omega)).busy.trans h.busy⟩

/-- The command goes to a further phase in the turn of step `m`, and completes from there. -/
theorem CommandRun.goes (hm : n ≤ m) (all : ∀ k, n ≤ k → k ≤ m → SameCommand (r n) (r k)) {c : Clk} {p : Phase}
    {x : Hold} (e : r (m + 1) = ({ r m with clk := c } : State).goto p x)
    (ends : CommandRun r ev (m + 1) i → (r (m + 1)).seq.phase = p → Completes r (m + 1) P) : Completes r n P := by
  have now := all m hm (le_refl m)
  obtain ⟨k, hk, done, post, running⟩ := ends
    { fair := h.fair
      rst := fun k hk => h.rst k (by omega)
      never := by rw [e]; exact (congrArg Config.clockMayFail now.cfg).trans h.never
      inv := h.fair.run.inv h.inv (by omega)
      busy := by rw [e]; exact now.busy.trans h.busy
      cmd := by rw [e]; exact (congrArg decodeCmd now.cmd).trans h.cmd } (by rw [e]; rfl)
  refine ⟨k, by omega, done, post, fun j hj hjk => ?_⟩
  by_cases early : j ≤ m
  · exact (all j hj early).busy.trans h.busy
  · exact running j (by omega) hjk

end

/-- A turn to another phase is no hold. -/
theorem turn_ne_hold {o : Host.Outcome State Fault Refusal} {u : State} (h : o = .next u)
    (phase : u.seq.phase ≠ t.seq.phase) : o ≠ .next t :=
  fun k => phase (by rw [Host.Outcome.next.inj (h.symm.trans k)])

/-! ## INIT -/

theorem execInit_initProgram_holds (hp : s.seq.phase = .initProgram a t0) (never : s.cfg.clockMayFail = false)
    (waits : s.env.busy = true) : execInit s = .next s := by
  rw [execInit_initProgram hp, clockHoldOver_eq_false_iff.mpr ⟨waits, by simp [never]⟩]
  rfl

theorem execInit_initCommit_holds (hp : s.seq.phase = .initCommit a t0) (never : s.cfg.clockMayFail = false)
    (waits : s.env.busy = false) : execInit s = .next s := by
  rw [execInit_initCommit hp, clockHoldOver_eq_false_iff.mpr ⟨waits, by simp [never]⟩]
  rfl

/-- INIT's success: `IDLE`, the clock running and the outputs enabled (R312). -/
structure InitDone (t : State) : Prop where
  result  : t.seq.result = .success
  state   : t.seq.state = .idle
  enab    : t.clk.enab = true
  busy    : t.env.busy = true
  enabled : t.ser.enabled = true

section
variable (h : CommandRun r ev n .init)
include h

/-- The second hold ends, and the commit follows. -/
theorem CommandRun.init_of_commit (hp : (r n).seq.phase = .initCommit a t0) : Completes r n InitDone := by
  obtain ⟨-, enab, -⟩ := h.inv.phase.initCommit_clk hp
  have commits (t : State) (k : SameCommand (r n) t) (answered : t.env.busy = (r n).clk.enab) :
      sequencerTurn t = .next ((t.initCommit a).complete .success) :=
    (h.turn_eq k).trans (execInit_commits (k.phase.trans hp) (answered.trans enab))
  obtain ⟨m, hm, turn, bit, all⟩ := h.fair.command_answered h.rst h.busy h.never
    (fun t k waits => (h.turn_eq k).trans (execInit_initCommit_holds (k.phase.trans hp)
      ((congrArg Config.clockMayFail k.cfg).trans h.never) (Bool.eq_false_iff.mpr (enab ▸ waits))))
    fun t k answered => turn_ne_hold (commits t k answered) (by rw [k.phase, hp]; nofun)
  have now := all m hm (le_refl m)
  have e := Host.Outcome.next.inj (turn.symm.trans (commits _ now bit))
  refine h.completes hm all (by rw [e]; rfl) ?_
  rw [e]
  exact ⟨rfl, rfl, (congrArg Clk.enab now.clk).trans enab, bit.trans enab, rfl⟩

/-- Step C, and then the second hold. -/
theorem CommandRun.init_of_enable (hp : (r n).seq.phase = .initEnable a) : Completes r n InitDone := by
  have enables (t : State) (k : SameCommand (r n) t) := (h.turn_eq k).trans (execInit_initEnable (k.phase.trans hp))
  obtain ⟨m, hm, turn, all⟩ := h.fair.command_turn h.rst h.busy fun t k =>
    turn_ne_hold (enables t k) (by rw [k.phase, hp]; nofun)
  exact h.goes hm all (Host.Outcome.next.inj (turn.symm.trans (enables _ (all m hm (le_refl m)))))
    fun h' hp' => h'.init_of_commit hp'

/-- The first hold ends, and step B follows. -/
theorem CommandRun.init_of_program (hp : (r n).seq.phase = .initProgram a t0) : Completes r n InitDone := by
  have enab := h.inv.phase.initProgram_enab hp
  have programs (t : State) (k : SameCommand (r n) t) (answered : t.env.busy = (r n).clk.enab) :=
    (h.turn_eq k).trans (execInit_programs (k.phase.trans hp) (answered.trans enab))
  obtain ⟨m, hm, turn, bit, all⟩ := h.fair.command_answered h.rst h.busy h.never
    (fun t k waits => (h.turn_eq k).trans (execInit_initProgram_holds (k.phase.trans hp)
      ((congrArg Config.clockMayFail k.cfg).trans h.never) (Bool.eq_true_of_not_eq_false (enab ▸ waits))))
    fun t k answered => turn_ne_hold (programs t k answered) (by rw [k.phase, hp]; nofun)
  exact h.goes hm all (Host.Outcome.next.inj (turn.symm.trans (programs _ (all m hm (le_refl m)) bit)))
    fun h' hp' => h'.init_of_enable hp'

/-- Step A, and then the first hold. -/
theorem CommandRun.init_of_disable (hp : (r n).seq.phase = .initDisable a) : Completes r n InitDone := by
  have disables (t : State) (k : SameCommand (r n) t) := (h.turn_eq k).trans (execInit_initDisable (k.phase.trans hp))
  obtain ⟨m, hm, turn, all⟩ := h.fair.command_turn h.rst h.busy fun t k =>
    turn_ne_hold (disables t k) (by rw [k.phase, hp]; nofun)
  exact h.goes hm all (Host.Outcome.next.inj (turn.symm.trans (disables _ (all m hm (le_refl m)))))
    fun h' hp' => h'.init_of_program hp'

/-- The checks: INIT fails at once, or goes on. -/
theorem CommandRun.init_of_start (hp : (r n).seq.phase = .start) : Completes r n fun _ => True := by
  have first {t u : State} (k : SameCommand (r n) t) (turn : sequencerTurn t = .next u) :=
    execInit_start_cases (k.phase.trans hp) ((h.turn_eq k).symm.trans turn)
  obtain ⟨m, hm, turn, all⟩ := h.fair.command_turn h.rst h.busy fun t k hold => by
    rcases first k hold with ⟨code, -, e⟩ | ⟨a, -, e⟩
    · exact nomatch (k.busy.trans h.busy).symm.trans (congrArg (·.seq.cmdBusy) e)
    · exact nomatch (k.phase.trans hp).symm.trans (congrArg (·.seq.phase) e)
  rcases first (all m hm (le_refl m)) turn with ⟨code, -, e⟩ | ⟨a, -, e⟩
  · exact h.completes hm all (by rw [e]; rfl) trivial
  · exact h.goes hm all (c := (r m).clk) e fun h' hp' => (h'.init_of_disable hp').imp fun _ _ => trivial

/-- A running INIT completes, with success once it is past its checks. -/
theorem CommandRun.init_completes : Completes r n fun t => (r n).seq.phase ≠ .start → InitDone t := by
  rcases h.inv.phase.of_init h.cmd with hp | ⟨-, ⟨a, hp⟩ | ⟨a, t0, hp, -⟩ | ⟨a, hp⟩ | ⟨a, t0, hp, -⟩⟩
  · exact (h.init_of_start hp).imp fun _ _ started => absurd hp started
  · exact (h.init_of_disable hp).imp fun _ done _ => done
  · exact (h.init_of_program hp).imp fun _ done _ => done
  · exact (h.init_of_enable hp).imp fun _ done _ => done
  · exact (h.init_of_commit hp).imp fun _ done _ => done

end

/-- Settles O34: the run ends with the commit, whose state keeps the invariant; and in a fair run each phase has its
turn, the two holds once the clock manager has answered. -/
theorem initSucceeds : Obligations.InitSucceeds := by
  unfold Obligations.InitSucceeds
  refine ⟨fun s a es h hr busy cmd hp checks stopped he => ?_, fun r ev n F h never busy cmd rst => ?_⟩
  · have run := run_init hr busy (cmd ▸ by decide) hp checks stopped he
    exact ⟨_, run, h.run run, rfl, rfl, rfl, rfl, rfl, rfl, rfl, rfl, rfl, rfl, rfl, rfl, rfl, rfl, rfl,
      fun n i hi => initCommit_pixel _ a n hi⟩
  · obtain ⟨m, hm, done, post, running⟩ := CommandRun.init_completes ⟨F, rst, never, h, busy, cmd⟩
    refine ⟨m, hm, done, fun started => ?_, running⟩
    obtain ⟨result, state, enab, bit, enabled⟩ := post started
    exact ⟨result, state, enab, bit, enabled⟩

end Sys2Proof.Machine
end

section
/-! INIT with no active channel, and FINI after it (R313, R334). -/

namespace Sys2Proof.Machine

open State

variable {s : State} {es : List Event} {prof : Profile}

/-! ## INIT with no active channel -/

section
variable (none0 : s.regs.chan.ch0.count = 0#16) (none1 : s.regs.chan.ch1.count = 0#16)
include none0 none1

/-- With both `COUNT` 0 no channel is active (R310). -/
theorem wanted_of_none : s.wanted = { ch0 := false, ch1 := false } := by
  simp [wanted, none0, none1]

/-- With no active channel the mode is `PWM` (R305). -/
theorem wantedMode_of_none : s.wantedMode = .pwm := by
  simp [wantedMode, wanted_of_none none0 none1, selectMode]

/-- With no active channel the frame is the two lanes' tails (R219). -/
theorem wantedGeometry_of_none : s.wantedGeometry.n = 2 * tailWords s.regs.freq.toNat := by
  have words (n : Chan) : (s.wantedSnaps.get n).words = 0 := by
    rw [wantedSnaps_words]
    cases n <;> simp [Pair.get, none0, none1]
  rw [wantedGeometry, geometry_eq, wantedMode_of_none none0 none1, words, words]
  exact (Nat.mul_comm _ _).trans (by simp)

/-- With no active channel INIT needs no pins: what is left to check passes (R313). -/
theorem setupChecks_of_none (freq : 400000 ≤ s.regs.freq.toNat)
    (engine : prof.dmaMask.getLsbD s.regs.dmanum.toNat = true) (fits : 2 * tailWords s.regs.freq.toNat ≤ s.cfg.symWords)
    (low : 2 ≤ s.wantedDivider prof) (high : s.wantedDivider prof ≤ 4095) : s.setupChecks prof = none := by
  have wanted := wanted_of_none none0 none1
  have mode := wantedMode_of_none none0 none1
  have size := wantedGeometry_of_none none0 none1
  have pins : s.pinsAllowed = true := by simp [pinsAllowed, mode, wanted, pinsOk]
  have divider : dividerOk (s.wantedDivider prof) = true := decide_eq_true ⟨low, high⟩
  simp [setupChecks, pinMissing, layoutBad, wanted, mode, pins, engine, none0, none1, size, divider, freqMin,
    Nat.not_lt.mpr freq, Nat.not_lt.mpr fits]

end

/-! ## FINI -/

theorem finiStop_inPhase (s : State) (es : List Event) (p : Phase) (x : Hold) :
    ({ s with env := { s.env with events := es } } : State).finiStop.goto p x =
      s.finiStop.inPhase es s.env.busy s.clk p x := rfl

/-- FINI's release and its completion write the phase and `HOLD`. -/
theorem finiRelease_inPhase (s : State) (es : List Event) (b : Bool) (c : Clk) (p : Phase) (x : Hold) :
    (s.inPhase es b c p x).finiRelease.complete .success =
      (s.inPhase es b c .start .none).finiRelease.complete .success := rfl

/-- Four turns of FINI in an initialised block, the clock manager answering: the release (R200, R334). -/
theorem run_fini (hr : s.env.rstN = true) (busy : s.seq.cmdBusy = true) (cmd : decodeCmd s.seq.cmd = .fini)
    (hp : s.seq.phase = .start) (live : s.seq.state ≠ .uninit)
    (he : s.env.events = [.sequencer, .sequencer, .clockManager, .sequencer] ++ es) :
    Sys2Proof.core.run 4 s = .next
      ((s.finiStop.inPhase es false { s.clk with enab := false } .start .none).finiRelease.complete .success) := by
  have hc : exec (decodeCmd s.seq.cmd) = execFini := by rw [cmd]; rfl
  calc Sys2Proof.core.run 4 s
    _ = Sys2Proof.core.run 3 (s.finiStop.inPhase ([.sequencer, .clockManager, .sequencer] ++ es) s.env.busy s.clk
          .finiDisable .none) :=
      run_command hr busy hc he (finiStop_inPhase s _ _ _ ▸ execFini_stops (by exact hp) (by exact live))
    _ = _ := run_phase (s := s.finiStop) hr busy hc (execFini_finiDisable rfl)
    _ = _ := run_clockManager (s := s.finiStop) hr
    _ = .next ((s.finiStop.inPhase es false { s.clk with enab := false } _ _).finiRelease.complete .success) :=
      run_command hr busy hc rfl (execFini_releases rfl (clockHoldOver_of_busy rfl _))
    _ = _ := congrArg _ (finiRelease_inPhase s.finiStop _ _ _ _ _)

/-- The host's write of FINI to `CMD` while no command runs, and FINI's four turns. -/
theorem run_writeFini (hr : s.env.rstN = true) (idle : s.seq.cmdBusy = false) (live : s.seq.state ≠ .uninit)
    (he : s.env.events =
      [.host 0x008#20 4 (.write 0x00000002#32), .sequencer, .sequencer, .clockManager, .sequencer] ++ es) :
    ∃ t : State, Sys2Proof.core.run 5 s = .next t ∧ t.seq.result = .success ∧ t.seq.state = .uninit ∧
      t.seq.cmdBusy = false ∧ t.clk.enab = false := by
  have accepted := (step_of_event hr he).trans (hostAccess_cmd_accepted (by exact idle) 0x00000002#32)
  have cmd : decodeCmd 0x00000002#32 = .fini := by decide
  exact ⟨_, (run_succ accepted).trans (run_fini hr rfl cmd rfl live rfl), rfl, rfl, rfl, rfl⟩

/-- Settles O35: the checks pass, the two runs end with `Success`, and `UNINIT` is the quiescent state with nothing
held. -/
theorem noChannelsInitThenFini : Obligations.NoChannelsInitThenFini := by
  unfold Obligations.NoChannelsInitThenFini
  intro s prof es h hr busy cmd hp hu stopped none0 none1 found freq engine fits low high he
  have checks : s.initChecks = .ok (s.initArgs prof) := by
    have passes := setupChecks_of_none none0 none1 freq engine fits low high
    have found : lookupProfile s.cfg s.env.profileId = some prof := found
    simp [initChecks, hu, found, passes]
  have init := run_init hr busy (cmd ▸ by decide) hp checks stopped he
  obtain ⟨u, fini, result, state, done, enab⟩ := run_writeFini
    (s := ((s.inPhase _ true { enab := true, divi := (s.initArgs prof).divi } .start .none).initCommit
      (s.initArgs prof)).complete .success) hr rfl nofun rfl
  have inv : u.Inv := (h.run init).run fini
  obtain ⟨quiet, released⟩ := inv.uninit state
  exact ⟨_, u, init, rfl, rfl, wantedMode_of_none none0 none1, wanted_of_none none0 none1, fini, result, state, done,
    enab, quiet.dmaStopped, quiet.lane0.2.2, quiet.lane1.2.2, congrArg Latched.coreHz released.latched, quiet, released⟩

end Sys2Proof.Machine
end

section
/-! FINI to its end: the step in which it completes, and every fair run whose clock answers (R302, R334, R375). -/

namespace Sys2Proof.Machine

open State

variable {s t : State} {r : Nat → State} {ev : Nat → Event} {n : Nat} {t0 : BitVec 64}

/-! ## The phases of FINI -/

/-- FINI's first step: it succeeds in `UNINIT`, or stops the DMA and the outputs (R334 steps 1 and 2). -/
theorem execFini_start_cases (hp : s.seq.phase = .start) (h : execFini s = .next t) :
    (s.seq.state = .uninit ∧ t = s.complete .success) ∨
    (s.seq.state ≠ .uninit ∧ t = s.finiStop.goto .finiDisable .none) := by
  rw [execFini_start hp] at h
  split at h
  · exact .inl ⟨‹_›, (Host.Outcome.next.inj h).symm⟩
  · exact .inr ⟨‹_›, (Host.Outcome.next.inj h).symm⟩

/-- A running FINI is at its start or in one of its two phases. -/
theorem State.PhaseOk.of_fini (h : s.PhaseOk) (hc : decodeCmd s.seq.cmd = .fini) :
    s.seq.phase = .start ∨ s.seq.phase = .finiDisable ∨ ∃ t0, s.seq.phase = .finiRelease t0 := by
  unfold State.PhaseOk at h
  split at h <;> simp_all

/-- FINI's hold finds the block quiet and `ENAB` 0 (R334). -/
theorem State.PhaseOk.finiRelease_quiet (h : s.PhaseOk) (hp : s.seq.phase = .finiRelease t0) :
    s.Quiet ∧ s.clk.enab = false := by
  unfold State.PhaseOk at h
  obtain ⟨-, -, -, quiet⟩ := hp ▸ h
  exact quiet

/-- FINI of an initialised block completes in its release, out of a quiet state (R334 step 4). -/
theorem State.PhaseOk.fini_completes (h : s.PhaseOk) (busy : s.seq.cmdBusy = true)
    (hc : decodeCmd s.seq.cmd = .fini) (live : s.seq.state ≠ .uninit) (ht : sequencerTurn s = .next t)
    (done : t.seq.cmdBusy = false) : s.Quiet ∧ s.clk.enab = false ∧ t = s.finiRelease.complete .success := by
  rw [sequencerTurn_busy busy, hc] at ht
  have runs {P : Prop} (k : t.seq.cmdBusy = s.seq.cmdBusy) : P := nomatch busy.symm.trans (k.symm.trans done)
  rcases execFini_cases ht with ⟨-, rfl⟩ | ⟨t0, hp, ⟨-, rfl⟩ | ⟨-, rfl⟩⟩ | ⟨idle, -⟩ | ⟨-, rfl⟩
  · exact runs rfl
  · exact runs rfl
  · obtain ⟨quiet, enab⟩ := h.finiRelease_quiet hp
    exact ⟨quiet, enab, rfl⟩
  · exact absurd idle live
  · exact runs rfl

/-! ## FINI in a fair run -/

/-- A command that runs up to step `m` and completes from there completes. -/
theorem Completes.of_later {P : State → Prop} {m : Nat} (hm : n ≤ m)
    (before : ∀ k, n ≤ k → k < m → (r k).seq.cmdBusy = true) (h : Completes r m P) : Completes r n P := by
  obtain ⟨k, hk, done, post, running⟩ := h
  refine ⟨k, hm.trans hk, done, post, fun j hj hjk => ?_⟩
  by_cases early : j < m
  · exact before j hj early
  · exact running j (by omega) hjk

/-- FINI's success (R334). -/
structure FiniDone (t : State) : Prop where
  result : t.seq.result = .success
  state  : t.seq.state = .uninit

section
variable (h : CommandRun r ev n .fini)
include h

/-- The hold ends, and the release follows. -/
theorem CommandRun.fini_of_release (hp : (r n).seq.phase = .finiRelease t0) : Completes r n FiniDone := by
  obtain ⟨-, enab⟩ := h.inv.phase.finiRelease_quiet hp
  have releases (t : State) (k : SameCommand (r n) t) (answered : t.env.busy = (r n).clk.enab) :
      sequencerTurn t = .next (t.finiRelease.complete .success) :=
    (h.turn_eq k).trans (execFini_releases (k.phase.trans hp) (clockHoldOver_of_busy (answered.trans enab) t0))
  obtain ⟨m, hm, turn, bit, all⟩ := h.fair.command_answered h.rst h.busy h.never
    (fun t k waits => (h.turn_eq k).trans (execFini_holds (k.phase.trans hp) (clockHoldOver_eq_false_iff.mpr
      ⟨Bool.eq_true_of_not_eq_false (enab ▸ waits), by simp [k.cfg, h.never]⟩)))
    fun t k answered => turn_ne_hold (releases t k answered) (by rw [k.phase, hp]; nofun)
  have e := Host.Outcome.next.inj (turn.symm.trans (releases _ (all m hm (le_refl m)) bit))
  exact h.completes hm all (by rw [e]; rfl) (by rw [e]; exact ⟨rfl, rfl⟩)

/-- The clock's disabling, and then the hold. -/
theorem CommandRun.fini_of_disable (hp : (r n).seq.phase = .finiDisable) : Completes r n FiniDone := by
  have disables (t : State) (k : SameCommand (r n) t) :=
    (h.turn_eq k).trans (execFini_finiDisable (k.phase.trans hp))
  obtain ⟨m, hm, turn, all⟩ := h.fair.command_turn h.rst h.busy fun t k =>
    turn_ne_hold (disables t k) (by rw [k.phase, hp]; nofun)
  exact h.goes hm all (Host.Outcome.next.inj (turn.symm.trans (disables _ (all m hm (le_refl m)))))
    fun h' hp' => h'.fini_of_release hp'

/-- The first step: FINI completes at once, or its stop goes on to the clock's disabling. -/
theorem CommandRun.fini_of_start (hp : (r n).seq.phase = .start) : Completes r n FiniDone := by
  have first {t u : State} (k : SameCommand (r n) t) (turn : sequencerTurn t = .next u) :=
    execFini_start_cases (k.phase.trans hp) ((h.turn_eq k).symm.trans turn)
  obtain ⟨m, hm, turn, all⟩ := h.fair.command_turn h.rst h.busy fun t k hold => by
    rcases first k hold with ⟨-, e⟩ | ⟨-, e⟩
    · exact nomatch (k.busy.trans h.busy).symm.trans (congrArg (·.seq.cmdBusy) e)
    · exact nomatch (k.phase.trans hp).symm.trans (congrArg (·.seq.phase) e)
  have now := all m hm (le_refl m)
  rcases first now turn with ⟨uninit, e⟩ | ⟨-, e⟩
  · exact h.completes hm all (by rw [e]; rfl) (by rw [e]; exact ⟨rfl, uninit⟩)
  · have stopped : CommandRun r ev (m + 1) .fini :=
      { fair := h.fair
        rst := fun k hk => h.rst k (by omega)
        never := by rw [e]; exact (congrArg Config.clockMayFail now.cfg).trans h.never
        inv := h.fair.run.inv h.inv (by omega)
        busy := by rw [e]; exact now.busy.trans h.busy
        cmd := by rw [e]; exact (congrArg decodeCmd now.cmd).trans h.cmd }
    exact (stopped.fini_of_disable (by rw [e]; rfl)).of_later (by omega)
      fun k hk hkm => (all k hk (by omega)).busy.trans h.busy

/-- A running FINI completes with success. -/
theorem CommandRun.fini_completes : Completes r n FiniDone := by
  rcases h.inv.phase.of_fini h.cmd with hp | hp | ⟨t0, hp⟩
  · exact h.fini_of_start hp
  · exact h.fini_of_disable hp
  · exact h.fini_of_release hp

end

/-- Settles O37: the completing step is the release, which keeps what is quiet; and in a fair run each phase has its
turn, the hold once the clock manager has answered. -/
theorem finiLeavesQuiet : Obligations.FiniLeavesQuiet := by
  unfold Obligations.FiniLeavesQuiet
  refine ⟨fun s t h hr he busy cmd live ht done => ?_, fun r ev n F h never busy cmd rst => ?_⟩
  · obtain ⟨es, k, hn, ⟨-, turn⟩ | ⟨off, -⟩⟩ := step_cases ht
    case inr => exact absurd (hr.symm.trans off) nofun
    have h' : State.Inv { s with env := { s.env with events := es, draws := k } } := hn ▸ h.nextEvent
    rw [he] at turn
    obtain ⟨quiet, enab, rfl⟩ := h'.phase.fini_completes busy cmd live turn done
    exact ⟨rfl, rfl, quiet.dmaStopped, quiet.fifoEmpty, quiet.disabled, enab,
      fun l => match l with | .ch0 => quiet.lane0 | .ch1 => quiet.lane1, rfl, rfl, rfl, rfl⟩
  · obtain ⟨m, hm, done, ⟨result, state⟩, running⟩ := CommandRun.fini_completes ⟨F, rst, never, h, busy, cmd⟩
    exact ⟨m, hm, done, result, state, running⟩

end Sys2Proof.Machine
end

section
/-! The DMA error entry: every turn that takes `ERROR` from 0 to 1 is one (R362). -/

namespace Sys2Proof.Machine

open State

variable {s t : State} {e : Event}

/-- `t` is `s` after the entry of a DMA error of some cause (R362). -/
def EntersDmaError (s t : State) : Prop := ∃ c, t = s.raiseDmaError c ∧ c ≠ .none

/-! ## The scheduler and the serializer -/

theorem loadBlock_error {b : CtrlBlock} (clean : s.dma.error = false) (err : (s.loadBlock b).dma.error = true) :
    EntersDmaError s (s.loadBlock b) := by
  rcases loadBlock_cases (s := s) b with ⟨-, k⟩ | ⟨-, -, k⟩ | ⟨-, -, k⟩
  · exact ⟨_, k, nofun⟩
  · exact ⟨_, k, nofun⟩
  · rw [k] at err
    exact absurd (clean.symm.trans err) nofun

theorem moveWord_error (clean : s.dma.error = false) (err : s.moveWord.dma.error = true) :
    EntersDmaError s s.moveWord := by
  rcases moveWord_cases (s := s) with ⟨-, k⟩ | ⟨-, -, k⟩ | ⟨-, -, -, -, k⟩ | ⟨-, -, -, -, k⟩ | ⟨-, -, -, k⟩
  · exact ⟨_, k, nofun⟩
  · exact ⟨_, k, nofun⟩
  · exact ⟨_, k, nofun⟩
  all_goals
    rw [k] at err
    exact absurd (clean.symm.trans err) nofun

theorem finishBlock_error : s.finishBlock.dma.error = s.dma.error := by
  rcases finishBlock_cases (s := s) with ⟨-, k⟩ | ⟨-, k⟩ <;> rw [k]

theorem runLoaded_error (clean : s.dma.error = false) (err : s.runLoaded.dma.error = true) :
    EntersDmaError s s.runLoaded := by
  rcases runLoaded_cases (s := s) with ⟨-, k⟩ | ⟨-, -, k⟩ | ⟨-, -, k⟩ <;> rw [k] at err ⊢
  · exact absurd (clean.symm.trans (finishBlock_error.symm.trans err)) nofun
  · exact moveWord_error clean err
  · exact absurd (clean.symm.trans err) nofun

theorem completionStep_dma : s.completionStep.dma = s.dma := by
  rcases completionStep_cases (s := s) with ⟨-, k⟩ | ⟨-, k⟩ <;> rw [k]

/-- The scheduler's turn enters an error from its state, or after a fetch has read its words (R264, R271). -/
theorem schedulerTurn_error (h : schedulerTurn s = .next t) (clean : s.dma.error = false)
    (err : t.dma.error = true) : EntersDmaError s t ∨ EntersDmaError s.fetched t := by
  rcases schedulerTurn_cases h with ⟨-, rfl⟩ | ⟨-, -, rfl⟩ | ⟨-, -, b, -, rfl⟩ | ⟨-, -, c, failed, k⟩
  · rw [completionStep_dma] at err
    exact absurd (clean.symm.trans err) nofun
  · exact .inl (runLoaded_error clean err)
  · exact .inr (loadBlock_error clean err)
  · exact .inr ⟨c, k, fetch_error failed⟩

theorem tick_error (clean : s.dma.error = false) (err : s.tick.dma.error = true) : EntersDmaError s s.tick := by
  rcases tick_cases (s := s) with ⟨-, k⟩ | ⟨-, -, -, k⟩ | ⟨-, -, -, k⟩ | ⟨-, -, k⟩
  case inr.inl => exact ⟨_, k, nofun⟩
  all_goals
    rw [k] at err
    exact absurd (clean.symm.trans err) nofun

/-! ## The step -/

/-- A turn that raises an error is its entry, some values drawn. -/
theorem turn_error (h : turn e s = .next t) (clean : s.dma.error = false) (err : t.dma.error = true) :
    ∃ n, EntersDmaError (s.drew n) t := by
  have kept {P : Prop} (k : t.dma.error = true → s.dma.error = true) : P := absurd (clean.symm.trans (k err)) nofun
  cases e with
  | host offset bytes op => exact kept ((hostAccess_sameWire h).dma ▸ id)
  | platform address bytes op =>
    rcases platformAccess_cases h with ⟨_, -, k⟩ | ⟨-, rfl⟩
    · exact kept ((hostAccess_sameWire k).dma ▸ id)
    · exact kept id
  | sequencer => exact kept (sequencerTurn_error h)
  | scheduler => exact (schedulerTurn_error h clean err).elim (⟨0, ·⟩) (⟨8, ·⟩)
  | serializer =>
    obtain rfl := Host.Outcome.next.inj h
    exact ⟨0, tick_error clean err⟩
  | clockManager | timer | resetLow | resetHigh | setProfileId v => exact kept (Host.Outcome.next.inj h ▸ id)

/-- Settles O55: the step is the entry at the state without its event, and no event in reset raises an error. -/
theorem dmaErrorEntry : Obligations.DmaErrorEntry := by
  unfold Obligations.DmaErrorEntry
  intro s t ht clean err
  obtain ⟨es, n, -, ⟨-, k⟩ | ⟨-, k⟩⟩ := step_cases ht
  · obtain ⟨m, c, rfl, hc⟩ := turn_error k clean err
    exact ⟨rfl, hc⟩
  · rcases turnInReset_cases k with rfl | ⟨-, rfl⟩ | ⟨v, -, rfl⟩
    · exact absurd (clean.symm.trans err) nofun
    · exact nomatch err
    · exact absurd (clean.symm.trans err) nofun

end Sys2Proof.Machine
end

section
/-! Who changes `BUF_HAZARD` (R34, R402). -/

namespace Sys2Proof.Machine

open State

variable {s t : State} {e : Event}

/-! ## The agents leave it -/

theorem execInit_bufHazard (h : execInit s = .next t) : t.seq.bufHazard = s.seq.bufHazard := by
  rcases execInit_cases h with ⟨_, -, rfl⟩ | ⟨_, _, -, ⟨-, rfl⟩ | ⟨-, -, rfl⟩ | ⟨-, -, rfl⟩⟩ | ⟨_, -, rfl⟩ |
    ⟨_, _, -, ⟨-, rfl⟩ | ⟨-, -, rfl⟩ | ⟨-, -, rfl⟩⟩ | ⟨_, -, rfl⟩ | ⟨_, -, rfl⟩ <;> rfl

theorem execFini_bufHazard (h : execFini s = .next t) : t.seq.bufHazard = s.seq.bufHazard := by
  rcases execFini_cases h with ⟨-, rfl⟩ | ⟨_, -, ⟨-, rfl⟩ | ⟨-, rfl⟩⟩ | ⟨-, rfl⟩ | ⟨-, rfl⟩ <;> rfl

theorem encodeStep_bufHazard (g0 g1 : List Word) : (s.encodeStep g0 g1).seq.bufHazard = s.seq.bufHazard := by
  rcases encodeStep_cases (s := s) g0 g1 with ⟨-, k⟩ | ⟨-, -, k⟩ | ⟨-, -, k⟩ <;> rw [k] <;> rfl

theorem buildPhase_bufHazard : s.buildPhase.seq.bufHazard = s.seq.bufHazard := by
  rcases buildPhase_cases (s := s) with ⟨-, k⟩ | ⟨-, k⟩ <;> rw [k]
  rfl

theorem execRender_bufHazard (h : execRender s = .next t) : t.seq.bufHazard = s.seq.bufHazard := by
  rcases execRender_cases h with ⟨-, ⟨-, rfl⟩ | ⟨-, rfl⟩⟩ | ⟨-, ⟨-, rfl⟩ | ⟨_, -, -, rfl⟩ | ⟨-, -, rfl⟩⟩ | ⟨-, rfl⟩ |
    ⟨g0, g1, -, rfl⟩ | ⟨-, rfl⟩ | ⟨-, rfl⟩ | ⟨-, rfl⟩ | ⟨-, rfl⟩
  case inr.inr.inr.inl => exact encodeStep_bufHazard g0 g1
  case inr.inr.inr.inr.inl => exact buildPhase_bufHazard
  all_goals rfl

/-- No step of a command writes the flag. -/
theorem sequencerTurn_bufHazard (h : sequencerTurn s = .next t) : t.seq.bufHazard = s.seq.bufHazard := by
  rcases sequencerTurn_cases h with ⟨-, k⟩ | ⟨-, rfl⟩
  · cases hc : decodeCmd s.seq.cmd <;> simp only [hc, exec] at k
    case init => exact execInit_bufHazard k
    case fini => exact execFini_bufHazard k
    case render => exact execRender_bufHazard k
    case wait =>
      rcases execWait_cases k with ⟨_, -, ⟨-, rfl⟩ | ⟨-, -, rfl⟩ | ⟨-, -, -, rfl⟩⟩ | ⟨-, rfl⟩ | ⟨-, rfl⟩ |
        ⟨-, -, rfl⟩ <;> rfl
    case setGamma ch => rcases execSetGamma_cases k with ⟨-, rfl⟩ | ⟨-, rfl⟩ <;> rfl
    case cmdMalformed =>
      obtain rfl := Host.Outcome.next.inj k
      rfl
    case cb b => exact absurd hc (decodeCmd_ne_cb _ b)
  · rfl

theorem runLoaded_bufHazard : s.runLoaded.seq.bufHazard = s.seq.bufHazard := by
  rcases runLoaded_cases (s := s) with ⟨-, k⟩ | ⟨-, -, k⟩ | ⟨-, -, k⟩ <;> rw [k]
  · rcases finishBlock_cases (s := s) with ⟨-, k⟩ | ⟨-, k⟩ <;> rw [k]
  · rcases moveWord_cases (s := s) with ⟨-, k⟩ | ⟨-, -, k⟩ | ⟨-, -, -, -, k⟩ | ⟨-, -, -, -, k⟩ | ⟨-, -, -, k⟩ <;>
      rw [k] <;> rfl

theorem schedulerTurn_bufHazard (h : schedulerTurn s = .next t) : t.seq.bufHazard = s.seq.bufHazard := by
  rcases schedulerTurn_cases h with ⟨-, rfl⟩ | ⟨-, -, rfl⟩ | ⟨-, -, b, -, rfl⟩ | ⟨-, -, _, -, rfl⟩
  · rcases completionStep_cases (s := s) with ⟨-, k⟩ | ⟨-, k⟩ <;> rw [k]
  · exact runLoaded_bufHazard
  · rcases loadBlock_cases (s := s.fetched) b with ⟨-, k⟩ | ⟨-, -, k⟩ | ⟨-, -, k⟩ <;> rw [k] <;> rfl
  · rfl

theorem tick_bufHazard : s.tick.seq.bufHazard = s.seq.bufHazard := by
  rcases tick_cases (s := s) with ⟨-, k⟩ | ⟨-, -, -, k⟩ | ⟨-, -, -, k⟩ | ⟨-, -, k⟩ <;> rw [k] <;> rfl

/-! ## The host's accesses -/

theorem hostRead_bufHazard (target : HostTarget) : (s.hostRead target).seq.bufHazard = s.seq.bufHazard := by
  cases target with
  | reg r => cases r <;> rfl
  | _ => rfl

theorem writeCmd_bufHazard (q : Seq) (v : Word) : (q.writeCmd v).bufHazard = q.bufHazard := by
  unfold Seq.writeCmd
  split <;> rfl

/-- Of the registers, only a write to `STATUS` reaches the flag (R34). -/
theorem hostWrite_reg_bufHazard {r : Reg} (h : r ≠ .status) (v : Word) :
    (s.hostWrite (.reg r) v).seq.bufHazard = s.seq.bufHazard := by
  cases r
  case status => exact absurd rfl h
  case cmd => exact writeCmd_bufHazard s.seq v
  all_goals rfl

/-- A host write sets the flag exactly at a buffer that is in use (R402). -/
theorem hostWrite_sets_bufHazard_iff (clear : s.seq.bufHazard = false) (target : HostTarget) (v : Word) :
    (s.hostWrite target v).seq.bufHazard = true ↔
      (∃ n i, target = .pixel n i) ∧ (s.seq.state = .encoding ∨ s.seq.state = .submitted) ∨
        (∃ n i, target = .gamma n i) ∧ s.seq.state = .encoding := by
  cases target with
  | reg r =>
    have kept : (s.hostWrite (.reg r) v).seq.bufHazard = false := by
      by_cases h : r = .status
      · subst h
        exact congrArg (· && _) clear
      · rw [hostWrite_reg_bufHazard h, clear]
    simp [kept]
  | gamma n i => simp [hostWrite, writeTarget, Seq.hazard, clear, RState.gammaHazard_eq]
  | pixel n i => simp [hostWrite, writeTarget, Seq.hazard, clear, RState.pixelHazard_eq]
  | cb j | sym k | reserved => simp [hostWrite, writeTarget, clear]

/-- A host write clears the flag exactly at `STATUS`, with the flag's bit set (R34). -/
theorem hostWrite_clears_bufHazard_iff (set : s.seq.bufHazard = true) (target : HostTarget) (v : Word) :
    (s.hostWrite target v).seq.bufHazard = false ↔ target = .reg .status ∧ v.getLsbD 6 = true := by
  cases target with
  | reg r =>
    by_cases h : r = .status
    · subst h
      simp [hostWrite, writeTarget, writeReg, Seq.writeStatus, set]
    · simp [hostWrite_reg_bufHazard h, set, h]
  | gamma n i | pixel n i => simp [hostWrite, writeTarget, Seq.hazard, set]
  | cb j | sym k | reserved => simp [hostWrite, writeTarget, set]

/-! ## The turn -/

/-- The host writes `v` at this offset with this event, directly or at the block's platform address (R101). -/
def State.writesAt (s : State) (e : Event) (offset : BitVec 20) (v : Word) : Prop :=
  e = .host offset 4 (.write v) ∨ ∃ a, e = .platform a 4 (.write v) ∧ platformOffset s.cfg a = some offset

/-- A turn whose event writes is that write. -/
theorem turn_of_writesAt {offset : BitVec 20} {v : Word} (hw : s.writesAt e offset v) (h : turn e s = .next t) :
    t = s.hostWrite (hostTarget s.cfg offset) v := by
  have access : s.hostAccess offset 4 (.write v) = .next t := by
    rcases hw with rfl | ⟨a, rfl, ha⟩
    · exact h
    · exact (platformAccess_of_some ha 4 (.write v)).symm.trans h
  obtain ⟨-, ⟨hop, -⟩ | ⟨_, hop, rfl⟩⟩ := hostAccess_cases access <;> cases hop
  rfl

theorem hostAccess_bufHazard {offset : BitVec 20} {bytes : Nat} {op : HostOp}
    (h : s.hostAccess offset bytes op = .next t) :
    t.seq.bufHazard = s.seq.bufHazard ∨ bytes = 4 ∧ ∃ v, op = .write v := by
  rcases hostAccess_cases h with ⟨hok, ⟨-, rfl⟩ | ⟨v, hop, -⟩⟩
  · exact .inl (hostRead_bufHazard _)
  · exact .inr ⟨by simpa using (Bool.and_eq_true_iff.mp hok).1, v, hop⟩

/-- A turn leaves the flag, or is a host write. -/
theorem turn_bufHazard (h : turn e s = .next t) :
    t.seq.bufHazard = s.seq.bufHazard ∨ ∃ offset v, s.writesAt e offset v := by
  cases e with
  | host offset bytes op =>
    rcases hostAccess_bufHazard h with k | ⟨rfl, v, rfl⟩
    · exact .inl k
    · exact .inr ⟨offset, v, .inl rfl⟩
  | platform address bytes op =>
    rcases platformAccess_cases h with ⟨offset, ho, k⟩ | ⟨-, rfl⟩
    · rcases hostAccess_bufHazard k with k | ⟨rfl, v, rfl⟩
      · exact .inl k
      · exact .inr ⟨offset, v, .inr ⟨address, rfl, ho⟩⟩
    · exact .inl rfl
  | sequencer => exact .inl (sequencerTurn_bufHazard h)
  | scheduler => exact .inl (schedulerTurn_bufHazard h)
  | serializer => exact .inl (Host.Outcome.next.inj h ▸ tick_bufHazard)
  | clockManager | timer | resetLow | resetHigh | setProfileId v => exact .inl (Host.Outcome.next.inj h ▸ rfl)

/-- A turn changes the flag exactly where it is a host write that changes it. -/
theorem turn_bufHazard_iff {b : Bool} (h : turn e s = .next t) (before : s.seq.bufHazard ≠ b) :
    t.seq.bufHazard = b ↔
      ∃ offset v, s.writesAt e offset v ∧ (s.hostWrite (hostTarget s.cfg offset) v).seq.bufHazard = b := by
  refine ⟨fun after => ?_, fun ⟨offset, v, hw, k⟩ => turn_of_writesAt hw h ▸ k⟩
  rcases turn_bufHazard h with kept | ⟨offset, v, hw⟩
  · exact absurd (kept.symm.trans after) before
  · exact ⟨offset, v, hw, turn_of_writesAt hw h ▸ after⟩

/-- The flag is set exactly by a write to a buffer in use (R402). -/
theorem turn_sets_bufHazard_iff (h : turn e s = .next t) (clear : s.seq.bufHazard = false) :
    t.seq.bufHazard = true ↔ ∃ offset v, s.writesAt e offset v ∧
      ((∃ n i, hostTarget s.cfg offset = .pixel n i) ∧ (s.seq.state = .encoding ∨ s.seq.state = .submitted) ∨
        (∃ n i, hostTarget s.cfg offset = .gamma n i) ∧ s.seq.state = .encoding) :=
  (turn_bufHazard_iff h (by simp [clear])).trans <| exists_congr fun _ => exists_congr fun v =>
    and_congr_right' (hostWrite_sets_bufHazard_iff clear _ v)

/-- It is cleared exactly by a write of 1 to it (R34). -/
theorem turn_clears_bufHazard_iff (h : turn e s = .next t) (set : s.seq.bufHazard = true) :
    t.seq.bufHazard = false ↔ ∃ offset v, s.writesAt e offset v ∧
      hostTarget s.cfg offset = .reg .status ∧ v.getLsbD 6 = true :=
  (turn_bufHazard_iff h (by simp [set])).trans <| exists_congr fun _ => exists_congr fun v =>
    and_congr_right' (hostWrite_clears_bufHazard_iff set _ v)

/-- Settles O19: no agent writes the flag, and a host write sets or clears it by its target. -/
theorem bufferHazardExactly : Obligations.BufferHazardExactly := by
  unfold Obligations.BufferHazardExactly
  intro s t hr ht
  obtain ⟨es, n, k⟩ := step_turn_cases hr ht
  have sets := turn_sets_bufHazard_iff k
  have clears := turn_clears_bufHazard_iff k
  exact ⟨sets, clears⟩

end Sys2Proof.Machine
end

section
/-! Reset: what a rising `rst_n` leaves, and that it meets the invariant (R390 to R392, R235). -/

namespace Sys2Proof.Machine

open State

/-- A word of a RAM that lists no byte has no value (R392). -/
theorem Memory.word?_nil (k : Nat) : Memory.word? [] k = none := rfl

/-- Gamma RAM reads as the identity right after reset (R235). -/
theorem reset_gamma_entry (n : Chan) (x : Byte) : (Rams.reset.gamma.get n).entry x = x := by
  cases n <;> exact Memory.entry_nil x

/-- Settles O8: `State.reset` is what a rising `rst_n` leaves of it. -/
theorem resetMeetsInvariant : Obligations.ResetMeetsInvariant := by
  unfold Obligations.ResetMeetsInvariant
  refine ⟨resetHigh_inv (s := State.reset) (by decide : Config.default.ok = true), ?_, reset_gamma_entry⟩
  exact Rams.wf_iff.mpr ⟨Memory.nil_wf, Memory.nil_wf, Memory.nil_wf, Memory.nil_wf, Memory.nil_wf, Memory.nil_wf⟩

/-- Settles O21: each component has its reset value, and an agent's event in reset is consumed. -/
theorem resetGivesResetValues : Obligations.ResetGivesResetValues := by
  unfold Obligations.ResetGivesResetValues
  refine ⟨fun s es he hr => ⟨_, step_in_reset hr he, rfl, rfl, rfl, rfl, rfl, rfl, rfl, rfl, fun n => ?chan, rfl, rfl, rfl,
    rfl, rfl, fun l => ?lane, fun n => ?snap, rfl, reset_gamma_entry,
    fun k => ⟨Memory.word?_nil k, Memory.word?_nil k, Memory.word?_nil k, Memory.word?_nil k⟩⟩,
    fun s es he hr => step_of_event hr he, fun s e es he hr => ?_⟩
  case chan => cases n <;> rfl
  case lane => cases l <;> rfl
  case snap => cases n <;> rfl
  rw [step_in_reset hr he]
  refine ⟨?_, ?_⟩
  · rintro (rfl | rfl | rfl | rfl | rfl) <;> rfl
  · rintro offset bytes op rfl
    rfl

end Sys2Proof.Machine
end
